-- ==== Sys2Proof/Word.lean ====
section
/-! DEFINITION. The machine's two widths: a byte is 8 bits and an address (and the program counter) 16 bits (R7).
All bit-field, sign-extension and byte-order helpers are in `Sys2Proof/Machine/Bits.lean`. -/

namespace Sys2Proof

/-- A memory cell, a register other than PC, an opcode or an operand byte: 8 bits (R7). -/
abbrev Byte := BitVec 8

/-- An address or the program counter: 16 bits (R7). -/
abbrev Word := BitVec 16

end Sys2Proof
end

