-- ==== Sys2Proof/Config.lean ====
section
/-! DEFINITION. What an implementation fixes (the parameters of R9: the chip's options and the `Platform` of R54),
as plain data that `State` carries and no step changes, and the free values: constants with no body, of which
nothing in Lean can be proved but that they are values. -/

namespace Sys2Proof

/-- What answers at an address (R54, field `region`). -/
inductive RegionKind where
  /-- Memory that reads and writes reach. -/
  | ram
  /-- Memory that reads reach and writes do not change. -/
  | rom
  /-- A device register; `sideEffects` says whether the extra bus accesses of R62 could be observed at it (R63). -/
  | device (sideEffects : Bool)
  /-- The region `none` of R54: nothing answers. -/
  | unpopulated
  deriving DecidableEq, Repr

/-- The addresses `base`, …, `base + size - 1` are of kind `kind`. -/
structure Region where
  base : Nat
  size : Nat
  kind : RegionKind
  deriving DecidableEq, Repr

/-- The addresses `base`, …, `base + size - 1` name the cells that start at `target` (R54, field `alias`). -/
structure AliasRange where
  base : Nat
  size : Nat
  target : Nat
  deriving DecidableEq, Repr

/-- A read where nothing answers (R54, `on_none_read`). -/
inductive OnNoneRead where
  /-- It returns a draw. -/
  | draw
  /-- It raises `UnpopulatedAccess`. -/
  | fault
  deriving DecidableEq, Repr

/-- A write to ROM (R54, `on_rom_write`). -/
inductive OnRomWrite where
  /-- It changes nothing. -/
  | ignore
  /-- It raises `WriteToRom`. -/
  | fault
  deriving DecidableEq, Repr

/-- The `Platform` record of R54. Where ranges overlap the first one listed holds; an address in no range is of kind
`otherwise`, and an address in no alias range names itself. -/
structure Platform where
  regions : List Region
  otherwise : RegionKind
  aliases : List AliasRange
  onNoneRead : OnNoneRead
  onRomWrite : OnRomWrite
  deriving DecidableEq, Repr

/-- `PTR_PAGE_CROSS` (R101): a 2-byte pointer whose low byte is at an address ending in FF. -/
inductive PtrPageCross where
  /-- The model stops with `PointerPageCross`. -/
  | fault
  /-- The second byte comes from offset 0 of the same page. -/
  | wrap
  deriving DecidableEq, Repr

/-- `DECIMAL` (R150): ADC and SBC with D = 1. -/
inductive DecimalRule where
  /-- Only what BCD arithmetic must mean is fixed; the rest is a draw (R150). -/
  | strict
  /-- The NMOS chip's algorithm (R151, R152). -/
  | nmos
  deriving DecidableEq, Repr

/-- The two ways R62 allows to treat the bus accesses that the rules do not list, where a device could observe them. -/
inductive ExtraBus where
  /-- The access is refused. -/
  | refuse
  /-- The access is made as the rules list it; a claim that rests on it must say so as a premise. -/
  | premise
  deriving DecidableEq, Repr

/-- The parameters of R9 that one machine keeps for good. -/
structure Config where
  /-- `HAS_ROR` (R6): false for a chip made before August 1976. -/
  hasRor : Bool
  platform : Platform
  ptrPageCross : PtrPageCross
  decimal : DecimalRule
  extraBus : ExtraBus
  deriving DecidableEq, Repr

/-- All of memory is RAM and every address names its own cell: the platform of the spec's test vectors
(95_test_vectors.md, Conventions), with the defaults of R54. DESIGN CHOICE (log entry 4). -/
def Platform.allRam : Platform where
  regions := []
  otherwise := .ram
  aliases := []
  onNoneRead := .draw
  onRomWrite := .ignore

/-- Every parameter at the default that R9 gives it. The platform, for which R9 gives none, is `Platform.allRam`.
DESIGN CHOICE (log entries 4 and 5). -/
def Config.default : Config where
  hasRor := true
  platform := Platform.allRam
  ptrPageCross := .fault
  decimal := .strict
  extraBus := .refuse

/-- One access to a device cell, as the event history records it (R54). -/
inductive DeviceEvent where
  | read (cell : Word)
  | write (cell : Word) (value : Byte)
  deriving DecidableEq, Repr

/-- The cell that was accessed. -/
def DeviceEvent.cell : DeviceEvent → Word
  | .read c => c
  | .write c _ => c

/-- `draw(8)` of R14: the free byte with this number. A use takes the number `State.draws` and advances it (log entry 7). -/
opaque Config.freeByte : Nat → Byte

/-- `draw(1)` of R14: the free bit with this number. A use takes the number `State.draws` and advances it (log entry 7). -/
opaque Config.freeBit : Nat → Bool

/-- `dev_read` of R54: what the device answers, given the event history and the cell (log entry 8). -/
opaque Config.devRead : List DeviceEvent → Word → Byte

/-- `irq_line` of R220: the free level of IRQ at a time; true is asserted (log entry 6). -/
opaque Config.irqLine : Nat → Bool

/-- `nmi_line` of R220: the free level of NMI at a time; true is asserted (log entry 6). -/
opaque Config.nmiLine : Nat → Bool

/-- `res_line` of R220: the free level of RES at a time; true is asserted (log entry 6). -/
opaque Config.resLine : Nat → Bool

/-- The delivery schedule of R225: whether an interrupt that is takable at a time is entered then (log entry 6). -/
opaque Config.schedule : Nat → Bool

end Sys2Proof
end

