-- ==== Sys2Proof/Machine/Bits.lean ====
section
/-! DEFINITION. Bit fields, extensions and the byte order of two-byte quantities (R10, R11, R55). -/

namespace Sys2Proof.Machine

/-- `{hi, lo} = hi * 256 + lo` (R10). -/
def word (hi lo : Byte) : Word := BitVec.ofNat 16 (hi.toNat * 256 + lo.toNat)

/-- `v[7:0]`. -/
def lowByte (v : Word) : Byte := BitVec.ofNat 8 v.toNat

/-- `v[15:8]`. -/
def highByte (v : Word) : Byte := BitVec.ofNat 8 (v.toNat / 256)

/-- `zext_16(n)` (R11); also the address of location `n` of page 0 (R94). -/
def zext (n : Byte) : Word := n.setWidth 16

/-- `sext_16(n)` (R11): `n` "treated as a signed number". -/
def sext (n : Byte) : Word := n.signExtend 16

/-- Byte `k` (from 0, the least significant) of a number. -/
def byteOfNat (k w : Nat) : Byte := BitVec.ofNat 8 (w / 256 ^ k)

end Sys2Proof.Machine
end

