-- ==== Sys2Proof/Machine/Memory.lean ====
section
/-! DEFINITION. Memory as data: the bytes of the 64 KiB space (R50) that differ from what an unlisted cell reads as,
in one canonical form, with its read and its write. -/

namespace Sys2Proof.Machine

/-- The contents of the cells, as pairs of a cell's address and its byte. -/
abbrev Memory := List Host.Cell

/-- What an unlisted cell reads as. The spec leaves the power-on contents open (R253).
DESIGN CHOICE (log entry 2), unsafe for a claim about the one run from `State.reset`. -/
def Memory.unlisted : Byte := 0x00#8

/-- The byte of a cell. -/
def Memory.read : Memory → Nat → Byte
  | [], _ => Memory.unlisted
  | (k, v) :: m, a => if k = a then v else Memory.read m a

/-- The contents without the entries of cell `a`, which then reads as unlisted. -/
def Memory.erase (m : Memory) (a : Nat) : Memory := m.filter fun c => c.1 != a

/-- The contents with an entry for cell `a` in its place. -/
def Memory.insert : Memory → Nat → Byte → Memory
  | [], a, v => [(a, v)]
  | (k, w) :: m, a, v => if a < k then (a, v) :: (k, w) :: m else (k, w) :: Memory.insert m a v

/-- The contents after `v` is stored in cell `a`. The canonical form is kept: a cell that holds what an unlisted cell
reads as is not listed. -/
def Memory.write (m : Memory) (a : Nat) (v : Byte) : Memory :=
  if v = Memory.unlisted then m.erase a else (m.erase a).insert a v

/-- The canonical form: addresses of the space, strictly rising, and no entry that an unlisted cell would read as. -/
abbrev Memory.wf (m : Memory) : Prop :=
  m.Pairwise (fun c e => c.1 < e.1) ∧ ∀ c ∈ m, c.1 < 65536 ∧ c.2 ≠ Memory.unlisted

end Sys2Proof.Machine
end

