-- ==== Sys2Proof/Machine/State.lean ====
section
/-! DEFINITION. Everything the machine holds, the reasons a step can stop, and the state after reset. -/

namespace Sys2Proof.Machine

/-- The six stored flags of P (R29). B and bit 5 are not stored (R32): they exist only in a pushed byte. -/
structure Flags where
  /-- N, "negative result" (R30). -/
  n : Bool
  /-- V, "overflow" (R31). -/
  v : Bool
  /-- D, "decimal mode" (R35). -/
  d : Bool
  /-- I, "IRQ disable" (R36). -/
  i : Bool
  /-- Z, "zero result" (R37). -/
  z : Bool
  /-- C, carry (R38). -/
  c : Bool
  deriving DecidableEq, Repr

/-- What the environment presents at one step boundary: the three input lines (R220; true is asserted, electrically
low), and `take`, the schedule's choice to enter a takable interrupt at this boundary or to let one more instruction
run (R225). -/
structure Boundary where
  irq : Bool
  nmi : Bool
  res : Bool
  take : Bool
  deriving DecidableEq, Repr

/-- A boundary at which no line is asserted, and an interrupt that is still pending is taken. -/
def Boundary.idle : Boundary where
  irq := false
  nmi := false
  res := false
  take := true

/-- The environment of a machine: the input lines as functions of time (R220), and the schedule beside them (R225). -/
inductive Environment where
  /-- The lines stay at these levels and the schedule at this choice, for ever. -/
  | hold (b : Boundary)
  /-- The lines and the schedule are any functions of time: nothing is known of them (log entry 6). -/
  | free
  deriving DecidableEq, Repr

/-- What the environment presents at time `t`. -/
def Environment.boundaryAt (e : Environment) (t : Nat) : Boundary :=
  match e with
  | .hold b => b
  | .free => { irq := Config.irqLine t, nmi := Config.nmiLine t, res := Config.resLine t, take := Config.schedule t }

/-- The whole machine. -/
structure State where
  /-- A, the accumulator (R20). -/
  a : Byte
  /-- X, an index register (R20). -/
  x : Byte
  /-- Y, an index register (R20). -/
  y : Byte
  /-- S, the stack pointer (R26). -/
  sp : Byte
  /-- PC, the program counter (R23). -/
  pc : Word
  /-- P, the flags (R29). -/
  p : Flags
  /-- `nmi_prev` (R43): the NMI line as last sampled. -/
  nmiPrev : Bool
  /-- `nmi_pending` (R43): an NMI edge seen and not yet serviced. -/
  nmiPending : Bool
  /-- `i_poll` (R43, R230): the value of I that the next IRQ decision uses. -/
  iPoll : Bool
  /-- The contents of the cells (R50), ROM's among them. -/
  mem : Memory
  /-- The event history of the device cells (R54), the latest access first. -/
  events : List DeviceEvent
  /-- The boundaries that come next, the first one first, where a claim fixes their lines one by one (R220, R225). -/
  inputs : List Boundary
  /-- The lines and the schedule at every boundary after those listed (R220, R225). -/
  environment : Environment
  /-- The model's own counter: the time of R220, in boundaries gone by (log entry 6). -/
  time : Nat
  /-- The model's own counter: how many free values have been drawn (R14, log entry 7). -/
  draws : Nat
  /-- The parameters of R9, which no step changes (log entry 5). -/
  cfg : Config
  deriving DecidableEq, Repr

/-- Why the model stops where the spec gives the hardware no defined behaviour (R14, R217). No handler is entered and
the state is not final. Stopping is safe: the model then proves less. -/
inductive Fault where
  /-- An opcode that is a blank cell of the chart (R89), or a ROR opcode on a chip without ROR (R6): raised by the fetch
  and by the meanings of ROR. Safe. -/
  | illegalOpcode (opcode : Byte) (pc : Word)
  /-- A 2-byte pointer crosses a page while `PTR_PAGE_CROSS` is `fault` (R101): raised by `readPtr`. Safe. -/
  | pointerPageCross (addr : Word)
  /-- A read where nothing answers while `on_none_read` is `fault` (R54): raised by `read`. Safe. -/
  | unpopulatedAccess (addr : Word)
  /-- A write to ROM while `on_rom_write` is `fault` (R54): raised by `write`. Safe. -/
  | writeToRom (addr : Word)
  deriving DecidableEq, Repr

/-- Why the model gives no meaning to an access or an instruction. -/
inductive Refusal where
  /-- The instruction has no meaning yet: raised only by an arm of `exec`. Safe. -/
  | notModelled (mnemonic : String)
  /-- An indexed, indirect or read-modify-write access in or near a device cell with side effects, whose further bus
  accesses the spec does not list (R62, U12), while the parameter `extraBus` is `refuse`: raised by `guardExtra`.
  Safe. -/
  | deviceExtraAccess (addr : Word)
  /-- A JSR whose operand bytes lie in the stack cells it writes (R191, U13): raised by `execJsr`. Safe. -/
  | jsrOverwritesOperand (pc : Word)
  deriving DecidableEq, Repr

/-- The machine right after reset (R46, R250): I = 1, `i_poll` = 1, nothing pending, PC from the RES vector of a memory
that lists nothing. A, X, Y, S, N, V, D, Z and C, which the spec leaves open, are 0: DESIGN CHOICE (log entry 1).
`nmi_prev` is the level of `nmi_line` at this reset, which the environment gives; here that line is not asserted:
DESIGN CHOICE (log entry 23). After it no line is asserted: DESIGN CHOICE (log entry 6). -/
def State.reset : State where
  a := 0x00#8
  x := 0x00#8
  y := 0x00#8
  sp := 0x00#8
  pc := word (Memory.read [] 0xFFFD) (Memory.read [] 0xFFFC)
  p := { n := false, v := false, d := false, i := true, z := false, c := false }
  nmiPrev := false
  nmiPending := false
  iPoll := true
  mem := []
  events := []
  inputs := []
  environment := .hold .idle
  time := 0
  draws := 0
  cfg := Config.default

end Sys2Proof.Machine
end

