-- ==== Sys2Proof/Machine/Ops.lean ====
section
/-! DEFINITION. The named operations over registers, memory and the stack; taking an interrupt or BRK and returning from
one; reset; and what a step boundary does. -/

namespace Sys2Proof

/-! ### The platform (R54) -/

/-- The alias range that holds an address, the first one listed. -/
def Platform.aliasOf (p : Platform) (a : Word) : Option AliasRange :=
  p.aliases.find? fun r => r.base ≤ a.toNat && a.toNat < r.base + r.size

/-- `alias`: the cell that an address names (R54). -/
def Platform.canon (p : Platform) (a : Word) : Word :=
  match p.aliasOf a with
  | some r => BitVec.ofNat 16 (r.target + (a.toNat - r.base))
  | none => a

/-- What R54 asks of `alias`: a cell names itself. -/
def Platform.AliasIdempotent (p : Platform) : Prop := ∀ a : Word, p.canon (p.canon a) = p.canon a

/-- `region`: what answers at a cell (R54). -/
def Platform.kindOf (p : Platform) (c : Word) : RegionKind :=
  match p.regions.find? fun r => r.base ≤ c.toNat && c.toNat < r.base + r.size with
  | some r => r.kind
  | none => p.otherwise

/-- Some cell of the platform may be a device with side effects (R63). -/
def Platform.hasSideEffects (p : Platform) : Bool :=
  p.otherwise == .device true || p.regions.any fun r => r.kind == .device true

end Sys2Proof

namespace Sys2Proof.Machine

/-- What a step or a meaning answers. -/
abbrev Result := Host.Outcome State Fault Refusal

/-- What an operation that also reads a value answers. -/
abbrev Access (α : Type) := Host.Outcome (α × State) Fault Refusal

/-- Goes on with `f` where `r` gives a next state, and stops where `r` stops. -/
def bindNext {α β : Type} (r : Host.Outcome α Fault Refusal) (f : α → Host.Outcome β Fault Refusal) :
    Host.Outcome β Fault Refusal :=
  match r with
  | .next v => f v
  | .fault e => .fault e
  | .refused e => .refused e

/-! ### Registers -/

/-- `A <- v`. -/
def State.setA (s : State) (v : Byte) : State := { s with a := v }

/-- `X <- v`. -/
def State.setX (s : State) (v : Byte) : State := { s with x := v }

/-- `Y <- v`. -/
def State.setY (s : State) (v : Byte) : State := { s with y := v }

/-- `S <- v`. -/
def State.setSp (s : State) (v : Byte) : State := { s with sp := v }

/-- Writes the stored flags. -/
def State.setP (s : State) (p : Flags) : State := { s with p := p }

/-- The N and Z of a result, the other flags kept: `SetNZ` of R13. -/
def Flags.withNZ (p : Flags) (r : Byte) : Flags := { p with n := r.msb, z := r == 0#8 }

/-- `SetNZ(r)` (R13). -/
def State.setNZ (s : State) (r : Byte) : State := s.setP (s.p.withNZ r)

/-- The end of an instruction that does not assign PC: PC moves past its `len` bytes (R24), and the next IRQ decision
uses the I of now (R230). -/
def State.advance (s : State) (len : Nat) : State :=
  { s with pc := s.pc + BitVec.ofNat 16 len, iPoll := s.p.i }

/-- The end of an instruction that assigns PC (R24, R230). -/
def State.jump (s : State) (target : Word) : State := { s with pc := target, iPoll := s.p.i }

/-- The end of CLI, SEI and PLP, one byte each: the next IRQ decision uses `before`, the I of before the instruction
(R230). -/
def State.advanceLagged (s : State) (before : Bool) : State := { s with pc := s.pc + 1#16, iPoll := before }

/-! ### Memory and the platform (R54) -/

/-- The cell that an address names on this machine. -/
def State.cell (s : State) (a : Word) : Word := s.cfg.platform.canon a

/-- What answers at an address on this machine. -/
def State.kindAt (s : State) (a : Word) : RegionKind := s.cfg.platform.kindOf (s.cell a)

/-- The contents of the cell that an address names. -/
def State.byteAt (s : State) (a : Word) : Byte := s.mem.read (s.cell a).toNat

/-- Changes the contents of the cell that an address names. -/
def State.storeCell (s : State) (a : Word) (v : Byte) : State :=
  { s with mem := s.mem.write (s.cell a).toNat v }

/-- Records an access to a device cell. -/
def State.record (s : State) (e : DeviceEvent) : State := { s with events := e :: s.events }

/-- `draw(8)` (R14): a fresh free byte. -/
def State.drawByte (s : State) : Byte × State :=
  (Config.freeByte s.draws, { s with draws := s.draws + 1 })

/-- `draw(1)` (R14): a fresh free bit. -/
def State.drawBit (s : State) : Bool × State :=
  (Config.freeBit s.draws, { s with draws := s.draws + 1 })

/-- `MemRead(a, 1)` (R54). A device answers on the history that ends with this very read. -/
def read (a : Word) (s : State) : Access Byte :=
  match s.kindAt a with
  | .ram => .next (s.byteAt a, s)
  | .rom => .next (s.byteAt a, s)
  | .device _ =>
    .next (Config.devRead (s.record (.read (s.cell a))).events (s.cell a), s.record (.read (s.cell a)))
  | .unpopulated =>
    match s.cfg.platform.onNoneRead with
    | .draw => .next s.drawByte
    | .fault => .fault (.unpopulatedAccess a)

/-- `MemWrite(a, 1, v)` (R54). -/
def write (a : Word) (v : Byte) (s : State) : Result :=
  match s.kindAt a with
  | .ram => .next (s.storeCell a v)
  | .rom =>
    match s.cfg.platform.onRomWrite with
    | .ignore => .next s
    | .fault => .fault (.writeToRom a)
  | .device _ => .next (s.record (.write (s.cell a) v))
  | .unpopulated => .next s

/-- `Read16(a)` (R13), low byte first as a vector is read (R53). -/
def read16 (a : Word) (s : State) : Access Word :=
  bindNext (read a s) fun (lo, s) =>
  bindNext (read (a + 1#16) s) fun (hi, s) => .next (word hi lo, s)

/-! ### The stack (R26, R27) -/

/-- The address of the stack cell that a value of S designates (R26). -/
def stackAddr (sp : Byte) : Word := word 0x01#8 sp

/-- `Push(v)` (R27). -/
def push (v : Byte) (s : State) : Result :=
  bindNext (write (stackAddr s.sp) v s) fun s => .next (s.setSp (s.sp - 1#8))

/-- `Pull()` (R27). -/
def pull (s : State) : Access Byte := read (stackAddr (s.sp + 1#8)) (s.setSp (s.sp + 1#8))

/-- Pushes a program counter: "In pushing PC, high byte is pushed first" (R55). -/
def pushWord (v : Word) (s : State) : Result :=
  bindNext (push (highByte v) s) fun s => push (lowByte v) s

/-- Pulls a program counter, low byte first (R192, R209). -/
def pullWord (s : State) : Access Word :=
  bindNext (pull s) fun (lo, s) =>
  bindNext (pull s) fun (hi, s) => .next (word hi lo, s)

/-- The weight of a flag in a byte. -/
def flagBit (b : Bool) (weight : Byte) : Byte := if b then weight else 0#8

/-- `P_byte(b)` (R33): the flags as they are pushed, bit 5 a 1 and `b` at bit 4. -/
def pByte (p : Flags) (b : Bool) : Byte :=
  flagBit p.n 0x80#8 ||| flagBit p.v 0x40#8 ||| 0x20#8 ||| flagBit b 0x10#8 |||
    flagBit p.d 0x08#8 ||| flagBit p.i 0x04#8 ||| flagBit p.z 0x02#8 ||| flagBit p.c 0x01#8

/-- `set_P(v)` (R34): bits 5 and 4 of a pulled byte are ignored. -/
def flagsOf (v : Byte) : Flags where
  n := v.getLsbD 7
  v := v.getLsbD 6
  d := v.getLsbD 3
  i := v.getLsbD 2
  z := v.getLsbD 1
  c := v.getLsbD 0

/-! ### Interrupts, BRK and reset -/

/-- The NMI vector (R53). -/
def nmiVector : Word := 0xFFFA#16

/-- The reset vector (R53). -/
def resVector : Word := 0xFFFC#16

/-- The vector of IRQ and BRK (R53). -/
def irqVector : Word := 0xFFFE#16

/-- Taking an exception, shared by BRK (R208), IRQ and NMI (R226): push the return address, push P with `b` as its B
bit, set I, and jump through the vector. Afterwards `i_poll` is 1 (R230). -/
def enter (ret : Word) (b : Bool) (vector : Word) (s : State) : Result :=
  bindNext (pushWord ret s) fun s =>
  bindNext (push (pByte s.p b) s) fun s =>
  bindNext (read16 vector (s.setP { s.p with i := true })) fun (target, s) => .next (s.jump target)

/-- Returning from one (R209, R228): P comes back, then PC, and I has no lag. -/
def returnFrom (s : State) : Result :=
  bindNext (pull s) fun (v, s) =>
  bindNext (pullWord (s.setP (flagsOf v))) fun (target, s) => .next (s.jump target)

/-- The interrupt step for IRQ (R226): the PC pushed is that of the unexecuted instruction, B is pushed as 0. -/
def irqEntry (s : State) : Result := enter s.pc false irqVector s

/-- The interrupt step for NMI (R226), which clears the pending edge. -/
def nmiEntry (s : State) : Result := enter s.pc false nmiVector { s with nmiPending := false }

/-- The reset draws of A, X, Y and S (R251). -/
def drawRegisters (s : State) : State :=
  let (a, s) := s.drawByte
  let (x, s) := s.drawByte
  let (y, s) := s.drawByte
  let (sp, s) := s.drawByte
  { s with a := a, x := x, y := y, sp := sp }

/-- The reset draws of N, V, D, Z and C (R251); I is 1. -/
def drawFlags (s : State) : State :=
  let (n, s) := s.drawBit
  let (v, s) := s.drawBit
  let (d, s) := s.drawBit
  let (z, s) := s.drawBit
  let (c, s) := s.drawBit
  s.setP { n := n, v := v, d := d, i := true, z := z, c := c }

/-- The reset step (R250). `nmi_prev` already holds the level sampled at this boundary (R221). -/
def resetStep (s : State) : Result :=
  bindNext (read16 resVector (s.setP { s.p with i := true })) fun (target, s) =>
  .next { (drawFlags (drawRegisters s)).jump target with nmiPending := false }

/-! ### The step boundary -/

/-- What the next step is (R225). -/
inductive Event where
  | reset
  | nmi
  | irq
  | instruction
  deriving DecidableEq, Repr

/-- The boundary that comes next: the first one listed, and after those the environment's (R220). -/
def State.boundary (s : State) : Boundary := s.inputs.headD (s.environment.boundaryAt s.time)

/-- Samples the lines, detecting an asserting edge of NMI (R221); the next boundary is at the next time. -/
def sampleLines (s : State) : State :=
  { s with
    inputs := s.inputs.tail
    time := s.time + 1
    nmiPending := s.nmiPending || (s.boundary.nmi && !s.nmiPrev)
    nmiPrev := s.boundary.nmi }

/-- The choice of the step at a boundary whose lines were sampled (R222 to R225): reset, then a takable NMI, then a
takable IRQ, each of these two only if the schedule takes it now. -/
def nextEvent (b : Boundary) (s : State) : Event :=
  if b.res then .reset
  else if s.nmiPending then (if b.take then .nmi else .instruction)
  else if b.irq && !s.iPoll then (if b.take then .irq else .instruction)
  else .instruction

end Sys2Proof.Machine
end

