-- ==== Sys2Proof/Machine/Flags.lean ====
section
/-! DEFINITION. Every flag computation: the adder (R145, R147), decimal mode (R150 to R152), the compares (R153),
increment and decrement (R160, R163), the shifts (R170 to R173) and BIT (R138). -/

namespace Sys2Proof.Machine

/-- What the 8-bit adder gives. -/
structure Sum where
  /-- The 8-bit result. -/
  r : Byte
  /-- The carry out of bit 7. -/
  cout : Bool
  /-- Signed overflow. -/
  v : Bool
  deriving DecidableEq, Repr

/-- `AddBin(a, m, c)` (R145). -/
def addBin (a m : Byte) (c : Bool) : Sum :=
  let t := a.toNat + m.toNat + c.toNat
  let r := BitVec.ofNat 8 t
  { r := r, cout := decide (256 ≤ t), v := a.msb == m.msb && r.msb != a.msb }

/-- `SubBin(a, m, c)` (R147): the addition of the complement. -/
def subBin (a m : Byte) (c : Bool) : Sum := addBin a (~~~m) c

/-- The flags of a binary sum: N, V, Z and C (R146, R148). -/
def sumFlags (t : Sum) (p : Flags) : Flags := { p.withNZ t.r with v := t.v, c := t.cout }

/-! ### Decimal mode -/

/-- The high digit of a byte. -/
def highDigit (b : Byte) : Nat := b.toNat / 16

/-- The low digit of a byte. -/
def lowDigit (b : Byte) : Nat := b.toNat % 16

/-- The byte is valid BCD (R150). -/
def validBcd (b : Byte) : Bool := decide (highDigit b ≤ 9) && decide (lowDigit b ≤ 9)

/-- `dec(b)` (R150). -/
def dec (b : Byte) : Nat := 10 * highDigit b + lowDigit b

/-- `bcd(k)` (R150). -/
def bcd (k : Nat) : Byte := BitVec.ofNat 8 (k / 10 * 16 + k % 10)

/-- The decimal sum of R150: the result and the carry. -/
def addDec (a m : Byte) (c : Bool) : Byte × Bool :=
  let t := dec a + dec m + c.toNat
  (bcd (t % 100), decide (100 ≤ t))

/-- The decimal difference of R150: the result and the carry, which is 1 where there is no borrow. -/
def subDec (a m : Byte) (c : Bool) : Byte × Bool :=
  let d : Int := (dec a : Int) - dec m - (1 - (c.toNat : Int))
  (bcd (d % 100).toNat, decide (0 ≤ d))

/-- Z, N and V drawn, in this order (R150). -/
def drawZNV (s : State) : State :=
  let (z, s) := s.drawBit
  let (n, s) := s.drawBit
  let (v, s) := s.drawBit
  s.setP { s.p with z := z, n := n, v := v }

/-- ADC or SBC under `DECIMAL = strict` (R150): `t` is the decimal result and carry, which holds where both operands are
valid BCD; all that the spec leaves open is drawn. -/
def decimalStrict (m : Byte) (t : Byte × Bool) (s : State) : State :=
  if validBcd s.a && validBcd m then
    drawZNV ((s.setA t.1).setP { s.p with c := t.2 })
  else
    let (a, s) := s.drawByte
    let (c, s) := s.drawBit
    drawZNV ((s.setA a).setP { s.p with c := c })

/-- The low-digit sum of R151, with the carry into the high digit at bit 4. -/
def nmosLowSum (a m : Byte) (c : Bool) : Nat :=
  let lo := lowDigit a + lowDigit m + c.toNat
  if 0x0A ≤ lo then (lo + 0x06) % 16 + 0x10 else lo

/-- The intermediate sum `t` of R151, unbounded. -/
def nmosSum (a m : Byte) (c : Bool) : Nat := 16 * highDigit a + 16 * highDigit m + nmosLowSum a m c

/-- The sum of R151 after its high digit was adjusted. -/
def nmosAdjusted (a m : Byte) (c : Bool) : Nat :=
  let t := nmosSum a m c
  if 0xA0 ≤ t then t + 0x60 else t

/-- ADC with D = 1 under `DECIMAL = nmos` (R151). -/
def adcNmos (m : Byte) (s : State) : State :=
  let t := BitVec.ofNat 8 (nmosSum s.a m s.p.c)
  let flags : Flags :=
    { s.p with
      n := t.msb
      v := ((s.a ^^^ t) &&& (m ^^^ t)).msb
      c := decide (0x100 ≤ nmosAdjusted s.a m s.p.c)
      z := (addBin s.a m s.p.c).r == 0#8 }
  (s.setA (BitVec.ofNat 8 (nmosAdjusted s.a m s.p.c))).setP flags

/-- The result of R152, before it is reduced to a byte. -/
def nmosDifference (a m : Byte) (c : Bool) : Int :=
  let lo : Int := (lowDigit a : Int) - lowDigit m + c.toNat - 1
  let lo := if lo < 0 then (lo - 0x06) % 16 - 0x10 else lo
  let t : Int := (16 * highDigit a : Int) - 16 * highDigit m + lo
  if t < 0 then t - 0x60 else t

/-- SBC with D = 1 under `DECIMAL = nmos` (R152): its flags are those of the binary subtraction. -/
def sbcNmos (m : Byte) (s : State) : State :=
  (s.setA (BitVec.ofInt 8 (nmosDifference s.a m s.p.c))).setP (sumFlags (subBin s.a m s.p.c) s.p)

/-- ADC (R146, R150, R151). -/
def adcEffect (m : Byte) (s : State) : State :=
  if s.p.d then
    match s.cfg.decimal with
    | .strict => decimalStrict m (addDec s.a m s.p.c) s
    | .nmos => adcNmos m s
  else (s.setA (addBin s.a m s.p.c).r).setP (sumFlags (addBin s.a m s.p.c) s.p)

/-- SBC (R148, R150, R152). -/
def sbcEffect (m : Byte) (s : State) : State :=
  if s.p.d then
    match s.cfg.decimal with
    | .strict => decimalStrict m (subDec s.a m s.p.c) s
    | .nmos => sbcNmos m s
  else (s.setA (subBin s.a m s.p.c).r).setP (sumFlags (subBin s.a m s.p.c) s.p)

/-! ### Compares and BIT -/

/-- The flags of a compare of `r` with `m` (R153): C, Z and N of the difference with no borrow in. -/
def compareFlags (r m : Byte) (p : Flags) : Flags :=
  { p.withNZ (subBin r m true).r with c := (subBin r m true).cout }

/-- The flags of BIT (R138). -/
def bitFlags (a m : Byte) (p : Flags) : Flags :=
  { p with n := m.getLsbD 7, v := m.getLsbD 6, z := (a &&& m) == 0#8 }

/-! ### Results with their flags, for read-modify-write instructions -/

/-- INC (R160). -/
def incOp (m : Byte) (p : Flags) : Byte × Flags := (m + 1#8, p.withNZ (m + 1#8))

/-- DEC (R163). -/
def decOp (m : Byte) (p : Flags) : Byte × Flags := (m - 1#8, p.withNZ (m - 1#8))

/-- ASL (R170). -/
def aslOp (m : Byte) (p : Flags) : Byte × Flags :=
  let r := m <<< 1
  (r, { p.withNZ r with c := m.getLsbD 7 })

/-- LSR (R171); N is 0. -/
def lsrOp (m : Byte) (p : Flags) : Byte × Flags :=
  let r := m >>> 1
  (r, { p with n := false, z := r == 0#8, c := m.getLsbD 0 })

/-- ROL (R172): the old C enters at bit 0. -/
def rolOp (m : Byte) (p : Flags) : Byte × Flags :=
  let r := (m <<< 1) ||| flagBit p.c 0x01#8
  (r, { p.withNZ r with c := m.getLsbD 7 })

/-- ROR (R173): the old C enters at bit 7. -/
def rorOp (m : Byte) (p : Flags) : Byte × Flags :=
  let r := (m >>> 1) ||| flagBit p.c 0x80#8
  (r, { p.withNZ r with c := m.getLsbD 0 })

end Sys2Proof.Machine
end

