-- ==== Sys2Proof/Syntax.lean ====
section
/-! DEFINITION. The instructions: one constructor per row of `spec/opcode_table.json` (R88), its mnemonic, and its
operand form (R81). -/

namespace Sys2Proof

/-- The forms whose operand is a memory cell (R94 to R99, R100, R102), each with its operand quantity. For JMP and JSR the
form `nn` is the target itself (R97). -/
inductive AddrForm where
  /-- `n`, Zero Page (R94). -/
  | zp (n : Byte)
  /-- `n,X`, Zero Page X (R95). -/
  | zpx (n : Byte)
  /-- `n,Y`, Zero Page Y (R96). -/
  | zpy (n : Byte)
  /-- `nn`, Absolute (R97). -/
  | abs (nn : Word)
  /-- `nn,X`, Absolute X (R98). -/
  | absx (nn : Word)
  /-- `nn,Y`, Absolute Y (R99). -/
  | absy (nn : Word)
  /-- `(n,X)`, Ind X (R100). -/
  | indx (n : Byte)
  /-- `(n),Y`, Ind Y (R102). -/
  | indy (n : Byte)
  deriving DecidableEq, Repr

/-- The thirteen operand forms of R81: eight of them in `AddrForm`. -/
inductive Form where
  /-- No operand (R91). -/
  | imp
  /-- `A`, Accumulator (R92). -/
  | acc
  /-- `#n`, Immediate (R93). -/
  | imm (n : Byte)
  /-- A form that names a memory cell, or for JMP and JSR a target. -/
  | mem (f : AddrForm)
  /-- `n`, Relative (R104). -/
  | rel (n : Byte)
  /-- `(nn)`, Indirect (R103). -/
  | ind (nn : Word)
  deriving DecidableEq, Repr

/-- The length in bytes of an instruction that has this memory form (R81). -/
def AddrForm.length : AddrForm → Nat
  | .zp _ => 2
  | .zpx _ => 2
  | .zpy _ => 2
  | .indx _ => 2
  | .indy _ => 2
  | .abs _ => 3
  | .absx _ => 3
  | .absy _ => 3

/-- The length in bytes of an instruction of this form (R81). -/
def Form.length : Form → Nat
  | .imp => 1
  | .acc => 1
  | .imm _ => 2
  | .mem f => f.length
  | .rel _ => 2
  | .ind _ => 3

/-- The 56 mnemonics (R2). -/
inductive Mnemonic where
  | lda | ldx | ldy | sta | stx | sty | tax | tay | txa | tya | tsx | txs | pha | php
  | pla | plp | and | ora | eor | bit | adc | sbc | cmp | cpx | cpy | inc | inx | iny
  | dec | dex | dey | asl | lsr | rol | ror | bpl | bmi | bvc | bvs | bcc | bcs | bne
  | beq | jmp | jsr | rts | clc | sec | cli | sei | cld | sed | clv | nop | brk | rti
  deriving DecidableEq, Repr

/-- The instructions of the opcode table, `n` a one-byte and `nn` a two-byte operand quantity (R83, R84). -/
inductive Instr where
  /-- LDA #n (opcode A9, R110, form R93). -/
  | ldaImm (n : Byte)
  /-- LDA n (opcode A5, R110, form R94). -/
  | ldaZp (n : Byte)
  /-- LDA n,X (opcode B5, R110, form R95). -/
  | ldaZpx (n : Byte)
  /-- LDA nn (opcode AD, R110, form R97). -/
  | ldaAbs (nn : Word)
  /-- LDA nn,X (opcode BD, R110, form R98). -/
  | ldaAbsx (nn : Word)
  /-- LDA nn,Y (opcode B9, R110, form R99). -/
  | ldaAbsy (nn : Word)
  /-- LDA (n,X) (opcode A1, R110, form R100). -/
  | ldaIndx (n : Byte)
  /-- LDA (n),Y (opcode B1, R110, form R102). -/
  | ldaIndy (n : Byte)
  /-- LDX #n (opcode A2, R111, form R93). -/
  | ldxImm (n : Byte)
  /-- LDX n (opcode A6, R111, form R94). -/
  | ldxZp (n : Byte)
  /-- LDX n,Y (opcode B6, R111, form R96). -/
  | ldxZpy (n : Byte)
  /-- LDX nn (opcode AE, R111, form R97). -/
  | ldxAbs (nn : Word)
  /-- LDX nn,Y (opcode BE, R111, form R99). -/
  | ldxAbsy (nn : Word)
  /-- LDY #n (opcode A0, R112, form R93). -/
  | ldyImm (n : Byte)
  /-- LDY n (opcode A4, R112, form R94). -/
  | ldyZp (n : Byte)
  /-- LDY n,X (opcode B4, R112, form R95). -/
  | ldyZpx (n : Byte)
  /-- LDY nn (opcode AC, R112, form R97). -/
  | ldyAbs (nn : Word)
  /-- LDY nn,X (opcode BC, R112, form R98). -/
  | ldyAbsx (nn : Word)
  /-- STA n (opcode 85, R113, form R94). -/
  | staZp (n : Byte)
  /-- STA n,X (opcode 95, R113, form R95). -/
  | staZpx (n : Byte)
  /-- STA nn (opcode 8D, R113, form R97). -/
  | staAbs (nn : Word)
  /-- STA nn,X (opcode 9D, R113, form R98). -/
  | staAbsx (nn : Word)
  /-- STA nn,Y (opcode 99, R113, form R99). -/
  | staAbsy (nn : Word)
  /-- STA (n,X) (opcode 81, R113, form R100). -/
  | staIndx (n : Byte)
  /-- STA (n),Y (opcode 91, R113, form R102). -/
  | staIndy (n : Byte)
  /-- STX n (opcode 86, R114, form R94). -/
  | stxZp (n : Byte)
  /-- STX n,Y (opcode 96, R114, form R96). -/
  | stxZpy (n : Byte)
  /-- STX nn (opcode 8E, R114, form R97). -/
  | stxAbs (nn : Word)
  /-- STY n (opcode 84, R115, form R94). -/
  | styZp (n : Byte)
  /-- STY n,X (opcode 94, R115, form R95). -/
  | styZpx (n : Byte)
  /-- STY nn (opcode 8C, R115, form R97). -/
  | styAbs (nn : Word)
  /-- TAX (opcode AA, R120, form R91). -/
  | tax
  /-- TAY (opcode A8, R121, form R91). -/
  | tay
  /-- TXA (opcode 8A, R122, form R91). -/
  | txa
  /-- TYA (opcode 98, R123, form R91). -/
  | tya
  /-- TSX (opcode BA, R124, form R91). -/
  | tsx
  /-- TXS (opcode 9A, R125, form R91). -/
  | txs
  /-- PHA (opcode 48, R126, form R91). -/
  | pha
  /-- PHP (opcode 08, R127, form R91). -/
  | php
  /-- PLA (opcode 68, R128, form R91). -/
  | pla
  /-- PLP (opcode 28, R129, form R91). -/
  | plp
  /-- AND #n (opcode 29, R135, form R93). -/
  | andImm (n : Byte)
  /-- AND n (opcode 25, R135, form R94). -/
  | andZp (n : Byte)
  /-- AND n,X (opcode 35, R135, form R95). -/
  | andZpx (n : Byte)
  /-- AND nn (opcode 2D, R135, form R97). -/
  | andAbs (nn : Word)
  /-- AND nn,X (opcode 3D, R135, form R98). -/
  | andAbsx (nn : Word)
  /-- AND nn,Y (opcode 39, R135, form R99). -/
  | andAbsy (nn : Word)
  /-- AND (n,X) (opcode 21, R135, form R100). -/
  | andIndx (n : Byte)
  /-- AND (n),Y (opcode 31, R135, form R102). -/
  | andIndy (n : Byte)
  /-- ORA #n (opcode 09, R136, form R93). -/
  | oraImm (n : Byte)
  /-- ORA n (opcode 05, R136, form R94). -/
  | oraZp (n : Byte)
  /-- ORA n,X (opcode 15, R136, form R95). -/
  | oraZpx (n : Byte)
  /-- ORA nn (opcode 0D, R136, form R97). -/
  | oraAbs (nn : Word)
  /-- ORA nn,X (opcode 1D, R136, form R98). -/
  | oraAbsx (nn : Word)
  /-- ORA nn,Y (opcode 19, R136, form R99). -/
  | oraAbsy (nn : Word)
  /-- ORA (n,X) (opcode 01, R136, form R100). -/
  | oraIndx (n : Byte)
  /-- ORA (n),Y (opcode 11, R136, form R102). -/
  | oraIndy (n : Byte)
  /-- EOR #n (opcode 49, R137, form R93). -/
  | eorImm (n : Byte)
  /-- EOR n (opcode 45, R137, form R94). -/
  | eorZp (n : Byte)
  /-- EOR n,X (opcode 55, R137, form R95). -/
  | eorZpx (n : Byte)
  /-- EOR nn (opcode 4D, R137, form R97). -/
  | eorAbs (nn : Word)
  /-- EOR nn,X (opcode 5D, R137, form R98). -/
  | eorAbsx (nn : Word)
  /-- EOR nn,Y (opcode 59, R137, form R99). -/
  | eorAbsy (nn : Word)
  /-- EOR (n,X) (opcode 41, R137, form R100). -/
  | eorIndx (n : Byte)
  /-- EOR (n),Y (opcode 51, R137, form R102). -/
  | eorIndy (n : Byte)
  /-- BIT n (opcode 24, R138, form R94). -/
  | bitZp (n : Byte)
  /-- BIT nn (opcode 2C, R138, form R97). -/
  | bitAbs (nn : Word)
  /-- ADC #n (opcode 69, R146, form R93). -/
  | adcImm (n : Byte)
  /-- ADC n (opcode 65, R146, form R94). -/
  | adcZp (n : Byte)
  /-- ADC n,X (opcode 75, R146, form R95). -/
  | adcZpx (n : Byte)
  /-- ADC nn (opcode 6D, R146, form R97). -/
  | adcAbs (nn : Word)
  /-- ADC nn,X (opcode 7D, R146, form R98). -/
  | adcAbsx (nn : Word)
  /-- ADC nn,Y (opcode 79, R146, form R99). -/
  | adcAbsy (nn : Word)
  /-- ADC (n,X) (opcode 61, R146, form R100). -/
  | adcIndx (n : Byte)
  /-- ADC (n),Y (opcode 71, R146, form R102). -/
  | adcIndy (n : Byte)
  /-- SBC #n (opcode E9, R148, form R93). -/
  | sbcImm (n : Byte)
  /-- SBC n (opcode E5, R148, form R94). -/
  | sbcZp (n : Byte)
  /-- SBC n,X (opcode F5, R148, form R95). -/
  | sbcZpx (n : Byte)
  /-- SBC nn (opcode ED, R148, form R97). -/
  | sbcAbs (nn : Word)
  /-- SBC nn,X (opcode FD, R148, form R98). -/
  | sbcAbsx (nn : Word)
  /-- SBC nn,Y (opcode F9, R148, form R99). -/
  | sbcAbsy (nn : Word)
  /-- SBC (n,X) (opcode E1, R148, form R100). -/
  | sbcIndx (n : Byte)
  /-- SBC (n),Y (opcode F1, R148, form R102). -/
  | sbcIndy (n : Byte)
  /-- CMP #n (opcode C9, R153, form R93). -/
  | cmpImm (n : Byte)
  /-- CMP n (opcode C5, R153, form R94). -/
  | cmpZp (n : Byte)
  /-- CMP n,X (opcode D5, R153, form R95). -/
  | cmpZpx (n : Byte)
  /-- CMP nn (opcode CD, R153, form R97). -/
  | cmpAbs (nn : Word)
  /-- CMP nn,X (opcode DD, R153, form R98). -/
  | cmpAbsx (nn : Word)
  /-- CMP nn,Y (opcode D9, R153, form R99). -/
  | cmpAbsy (nn : Word)
  /-- CMP (n,X) (opcode C1, R153, form R100). -/
  | cmpIndx (n : Byte)
  /-- CMP (n),Y (opcode D1, R153, form R102). -/
  | cmpIndy (n : Byte)
  /-- CPX #n (opcode E0, R154, form R93). -/
  | cpxImm (n : Byte)
  /-- CPX n (opcode E4, R154, form R94). -/
  | cpxZp (n : Byte)
  /-- CPX nn (opcode EC, R154, form R97). -/
  | cpxAbs (nn : Word)
  /-- CPY #n (opcode C0, R155, form R93). -/
  | cpyImm (n : Byte)
  /-- CPY n (opcode C4, R155, form R94). -/
  | cpyZp (n : Byte)
  /-- CPY nn (opcode CC, R155, form R97). -/
  | cpyAbs (nn : Word)
  /-- INC n (opcode E6, R160, form R94). -/
  | incZp (n : Byte)
  /-- INC n,X (opcode F6, R160, form R95). -/
  | incZpx (n : Byte)
  /-- INC nn (opcode EE, R160, form R97). -/
  | incAbs (nn : Word)
  /-- INC nn,X (opcode FE, R160, form R98). -/
  | incAbsx (nn : Word)
  /-- INX (opcode E8, R161, form R91). -/
  | inx
  /-- INY (opcode C8, R162, form R91). -/
  | iny
  /-- DEC n (opcode C6, R163, form R94). -/
  | decZp (n : Byte)
  /-- DEC n,X (opcode D6, R163, form R95). -/
  | decZpx (n : Byte)
  /-- DEC nn (opcode CE, R163, form R97). -/
  | decAbs (nn : Word)
  /-- DEC nn,X (opcode DE, R163, form R98). -/
  | decAbsx (nn : Word)
  /-- DEX (opcode CA, R164, form R91). -/
  | dex
  /-- DEY (opcode 88, R165, form R91). -/
  | dey
  /-- ASL A (opcode 0A, R170, form R92). -/
  | aslAcc
  /-- ASL n (opcode 06, R170, form R94). -/
  | aslZp (n : Byte)
  /-- ASL n,X (opcode 16, R170, form R95). -/
  | aslZpx (n : Byte)
  /-- ASL nn (opcode 0E, R170, form R97). -/
  | aslAbs (nn : Word)
  /-- ASL nn,X (opcode 1E, R170, form R98). -/
  | aslAbsx (nn : Word)
  /-- LSR A (opcode 4A, R171, form R92). -/
  | lsrAcc
  /-- LSR n (opcode 46, R171, form R94). -/
  | lsrZp (n : Byte)
  /-- LSR n,X (opcode 56, R171, form R95). -/
  | lsrZpx (n : Byte)
  /-- LSR nn (opcode 4E, R171, form R97). -/
  | lsrAbs (nn : Word)
  /-- LSR nn,X (opcode 5E, R171, form R98). -/
  | lsrAbsx (nn : Word)
  /-- ROL A (opcode 2A, R172, form R92). -/
  | rolAcc
  /-- ROL n (opcode 26, R172, form R94). -/
  | rolZp (n : Byte)
  /-- ROL n,X (opcode 36, R172, form R95). -/
  | rolZpx (n : Byte)
  /-- ROL nn (opcode 2E, R172, form R97). -/
  | rolAbs (nn : Word)
  /-- ROL nn,X (opcode 3E, R172, form R98). -/
  | rolAbsx (nn : Word)
  /-- ROR A (opcode 6A, R173, form R92). -/
  | rorAcc
  /-- ROR n (opcode 66, R173, form R94). -/
  | rorZp (n : Byte)
  /-- ROR n,X (opcode 76, R173, form R95). -/
  | rorZpx (n : Byte)
  /-- ROR nn (opcode 6E, R173, form R97). -/
  | rorAbs (nn : Word)
  /-- ROR nn,X (opcode 7E, R173, form R98). -/
  | rorAbsx (nn : Word)
  /-- BPL n (opcode 10, R181, form R104). -/
  | bpl (n : Byte)
  /-- BMI n (opcode 30, R182, form R104). -/
  | bmi (n : Byte)
  /-- BVC n (opcode 50, R183, form R104). -/
  | bvc (n : Byte)
  /-- BVS n (opcode 70, R184, form R104). -/
  | bvs (n : Byte)
  /-- BCC n (opcode 90, R185, form R104). -/
  | bcc (n : Byte)
  /-- BCS n (opcode B0, R186, form R104). -/
  | bcs (n : Byte)
  /-- BNE n (opcode D0, R187, form R104). -/
  | bne (n : Byte)
  /-- BEQ n (opcode F0, R188, form R104). -/
  | beq (n : Byte)
  /-- JMP nn (opcode 4C, R189, form R97). -/
  | jmpAbs (nn : Word)
  /-- JMP (nn) (opcode 6C, R190, form R103). -/
  | jmpInd (nn : Word)
  /-- JSR nn (opcode 20, R191, form R97). -/
  | jsr (nn : Word)
  /-- RTS (opcode 60, R192, form R91). -/
  | rts
  /-- CLC (opcode 18, R200, form R91). -/
  | clc
  /-- SEC (opcode 38, R201, form R91). -/
  | sec
  /-- CLI (opcode 58, R202, form R91). -/
  | cli
  /-- SEI (opcode 78, R203, form R91). -/
  | sei
  /-- CLD (opcode D8, R204, form R91). -/
  | cld
  /-- SED (opcode F8, R205, form R91). -/
  | sed
  /-- CLV (opcode B8, R206, form R91). -/
  | clv
  /-- NOP (opcode EA, R207, form R91). -/
  | nop
  /-- BRK (opcode 00, R208, form R91). -/
  | brk
  /-- RTI (opcode 40, R209, form R91). -/
  | rti
  deriving DecidableEq, Repr

/-- The mnemonic of an instruction (R88). -/
def Instr.mnemonic : Instr → Mnemonic
  | .ldaImm _ => .lda
  | .ldaZp _ => .lda
  | .ldaZpx _ => .lda
  | .ldaAbs _ => .lda
  | .ldaAbsx _ => .lda
  | .ldaAbsy _ => .lda
  | .ldaIndx _ => .lda
  | .ldaIndy _ => .lda
  | .ldxImm _ => .ldx
  | .ldxZp _ => .ldx
  | .ldxZpy _ => .ldx
  | .ldxAbs _ => .ldx
  | .ldxAbsy _ => .ldx
  | .ldyImm _ => .ldy
  | .ldyZp _ => .ldy
  | .ldyZpx _ => .ldy
  | .ldyAbs _ => .ldy
  | .ldyAbsx _ => .ldy
  | .staZp _ => .sta
  | .staZpx _ => .sta
  | .staAbs _ => .sta
  | .staAbsx _ => .sta
  | .staAbsy _ => .sta
  | .staIndx _ => .sta
  | .staIndy _ => .sta
  | .stxZp _ => .stx
  | .stxZpy _ => .stx
  | .stxAbs _ => .stx
  | .styZp _ => .sty
  | .styZpx _ => .sty
  | .styAbs _ => .sty
  | .tax => .tax
  | .tay => .tay
  | .txa => .txa
  | .tya => .tya
  | .tsx => .tsx
  | .txs => .txs
  | .pha => .pha
  | .php => .php
  | .pla => .pla
  | .plp => .plp
  | .andImm _ => .and
  | .andZp _ => .and
  | .andZpx _ => .and
  | .andAbs _ => .and
  | .andAbsx _ => .and
  | .andAbsy _ => .and
  | .andIndx _ => .and
  | .andIndy _ => .and
  | .oraImm _ => .ora
  | .oraZp _ => .ora
  | .oraZpx _ => .ora
  | .oraAbs _ => .ora
  | .oraAbsx _ => .ora
  | .oraAbsy _ => .ora
  | .oraIndx _ => .ora
  | .oraIndy _ => .ora
  | .eorImm _ => .eor
  | .eorZp _ => .eor
  | .eorZpx _ => .eor
  | .eorAbs _ => .eor
  | .eorAbsx _ => .eor
  | .eorAbsy _ => .eor
  | .eorIndx _ => .eor
  | .eorIndy _ => .eor
  | .bitZp _ => .bit
  | .bitAbs _ => .bit
  | .adcImm _ => .adc
  | .adcZp _ => .adc
  | .adcZpx _ => .adc
  | .adcAbs _ => .adc
  | .adcAbsx _ => .adc
  | .adcAbsy _ => .adc
  | .adcIndx _ => .adc
  | .adcIndy _ => .adc
  | .sbcImm _ => .sbc
  | .sbcZp _ => .sbc
  | .sbcZpx _ => .sbc
  | .sbcAbs _ => .sbc
  | .sbcAbsx _ => .sbc
  | .sbcAbsy _ => .sbc
  | .sbcIndx _ => .sbc
  | .sbcIndy _ => .sbc
  | .cmpImm _ => .cmp
  | .cmpZp _ => .cmp
  | .cmpZpx _ => .cmp
  | .cmpAbs _ => .cmp
  | .cmpAbsx _ => .cmp
  | .cmpAbsy _ => .cmp
  | .cmpIndx _ => .cmp
  | .cmpIndy _ => .cmp
  | .cpxImm _ => .cpx
  | .cpxZp _ => .cpx
  | .cpxAbs _ => .cpx
  | .cpyImm _ => .cpy
  | .cpyZp _ => .cpy
  | .cpyAbs _ => .cpy
  | .incZp _ => .inc
  | .incZpx _ => .inc
  | .incAbs _ => .inc
  | .incAbsx _ => .inc
  | .inx => .inx
  | .iny => .iny
  | .decZp _ => .dec
  | .decZpx _ => .dec
  | .decAbs _ => .dec
  | .decAbsx _ => .dec
  | .dex => .dex
  | .dey => .dey
  | .aslAcc => .asl
  | .aslZp _ => .asl
  | .aslZpx _ => .asl
  | .aslAbs _ => .asl
  | .aslAbsx _ => .asl
  | .lsrAcc => .lsr
  | .lsrZp _ => .lsr
  | .lsrZpx _ => .lsr
  | .lsrAbs _ => .lsr
  | .lsrAbsx _ => .lsr
  | .rolAcc => .rol
  | .rolZp _ => .rol
  | .rolZpx _ => .rol
  | .rolAbs _ => .rol
  | .rolAbsx _ => .rol
  | .rorAcc => .ror
  | .rorZp _ => .ror
  | .rorZpx _ => .ror
  | .rorAbs _ => .ror
  | .rorAbsx _ => .ror
  | .bpl _ => .bpl
  | .bmi _ => .bmi
  | .bvc _ => .bvc
  | .bvs _ => .bvs
  | .bcc _ => .bcc
  | .bcs _ => .bcs
  | .bne _ => .bne
  | .beq _ => .beq
  | .jmpAbs _ => .jmp
  | .jmpInd _ => .jmp
  | .jsr _ => .jsr
  | .rts => .rts
  | .clc => .clc
  | .sec => .sec
  | .cli => .cli
  | .sei => .sei
  | .cld => .cld
  | .sed => .sed
  | .clv => .clv
  | .nop => .nop
  | .brk => .brk
  | .rti => .rti

/-- The operand form of an instruction, with its operand (R88, R105). -/
def Instr.form : Instr → Form
  | .ldaImm n => .imm n
  | .ldaZp n => .mem (.zp n)
  | .ldaZpx n => .mem (.zpx n)
  | .ldaAbs nn => .mem (.abs nn)
  | .ldaAbsx nn => .mem (.absx nn)
  | .ldaAbsy nn => .mem (.absy nn)
  | .ldaIndx n => .mem (.indx n)
  | .ldaIndy n => .mem (.indy n)
  | .ldxImm n => .imm n
  | .ldxZp n => .mem (.zp n)
  | .ldxZpy n => .mem (.zpy n)
  | .ldxAbs nn => .mem (.abs nn)
  | .ldxAbsy nn => .mem (.absy nn)
  | .ldyImm n => .imm n
  | .ldyZp n => .mem (.zp n)
  | .ldyZpx n => .mem (.zpx n)
  | .ldyAbs nn => .mem (.abs nn)
  | .ldyAbsx nn => .mem (.absx nn)
  | .staZp n => .mem (.zp n)
  | .staZpx n => .mem (.zpx n)
  | .staAbs nn => .mem (.abs nn)
  | .staAbsx nn => .mem (.absx nn)
  | .staAbsy nn => .mem (.absy nn)
  | .staIndx n => .mem (.indx n)
  | .staIndy n => .mem (.indy n)
  | .stxZp n => .mem (.zp n)
  | .stxZpy n => .mem (.zpy n)
  | .stxAbs nn => .mem (.abs nn)
  | .styZp n => .mem (.zp n)
  | .styZpx n => .mem (.zpx n)
  | .styAbs nn => .mem (.abs nn)
  | .tax => .imp
  | .tay => .imp
  | .txa => .imp
  | .tya => .imp
  | .tsx => .imp
  | .txs => .imp
  | .pha => .imp
  | .php => .imp
  | .pla => .imp
  | .plp => .imp
  | .andImm n => .imm n
  | .andZp n => .mem (.zp n)
  | .andZpx n => .mem (.zpx n)
  | .andAbs nn => .mem (.abs nn)
  | .andAbsx nn => .mem (.absx nn)
  | .andAbsy nn => .mem (.absy nn)
  | .andIndx n => .mem (.indx n)
  | .andIndy n => .mem (.indy n)
  | .oraImm n => .imm n
  | .oraZp n => .mem (.zp n)
  | .oraZpx n => .mem (.zpx n)
  | .oraAbs nn => .mem (.abs nn)
  | .oraAbsx nn => .mem (.absx nn)
  | .oraAbsy nn => .mem (.absy nn)
  | .oraIndx n => .mem (.indx n)
  | .oraIndy n => .mem (.indy n)
  | .eorImm n => .imm n
  | .eorZp n => .mem (.zp n)
  | .eorZpx n => .mem (.zpx n)
  | .eorAbs nn => .mem (.abs nn)
  | .eorAbsx nn => .mem (.absx nn)
  | .eorAbsy nn => .mem (.absy nn)
  | .eorIndx n => .mem (.indx n)
  | .eorIndy n => .mem (.indy n)
  | .bitZp n => .mem (.zp n)
  | .bitAbs nn => .mem (.abs nn)
  | .adcImm n => .imm n
  | .adcZp n => .mem (.zp n)
  | .adcZpx n => .mem (.zpx n)
  | .adcAbs nn => .mem (.abs nn)
  | .adcAbsx nn => .mem (.absx nn)
  | .adcAbsy nn => .mem (.absy nn)
  | .adcIndx n => .mem (.indx n)
  | .adcIndy n => .mem (.indy n)
  | .sbcImm n => .imm n
  | .sbcZp n => .mem (.zp n)
  | .sbcZpx n => .mem (.zpx n)
  | .sbcAbs nn => .mem (.abs nn)
  | .sbcAbsx nn => .mem (.absx nn)
  | .sbcAbsy nn => .mem (.absy nn)
  | .sbcIndx n => .mem (.indx n)
  | .sbcIndy n => .mem (.indy n)
  | .cmpImm n => .imm n
  | .cmpZp n => .mem (.zp n)
  | .cmpZpx n => .mem (.zpx n)
  | .cmpAbs nn => .mem (.abs nn)
  | .cmpAbsx nn => .mem (.absx nn)
  | .cmpAbsy nn => .mem (.absy nn)
  | .cmpIndx n => .mem (.indx n)
  | .cmpIndy n => .mem (.indy n)
  | .cpxImm n => .imm n
  | .cpxZp n => .mem (.zp n)
  | .cpxAbs nn => .mem (.abs nn)
  | .cpyImm n => .imm n
  | .cpyZp n => .mem (.zp n)
  | .cpyAbs nn => .mem (.abs nn)
  | .incZp n => .mem (.zp n)
  | .incZpx n => .mem (.zpx n)
  | .incAbs nn => .mem (.abs nn)
  | .incAbsx nn => .mem (.absx nn)
  | .inx => .imp
  | .iny => .imp
  | .decZp n => .mem (.zp n)
  | .decZpx n => .mem (.zpx n)
  | .decAbs nn => .mem (.abs nn)
  | .decAbsx nn => .mem (.absx nn)
  | .dex => .imp
  | .dey => .imp
  | .aslAcc => .acc
  | .aslZp n => .mem (.zp n)
  | .aslZpx n => .mem (.zpx n)
  | .aslAbs nn => .mem (.abs nn)
  | .aslAbsx nn => .mem (.absx nn)
  | .lsrAcc => .acc
  | .lsrZp n => .mem (.zp n)
  | .lsrZpx n => .mem (.zpx n)
  | .lsrAbs nn => .mem (.abs nn)
  | .lsrAbsx nn => .mem (.absx nn)
  | .rolAcc => .acc
  | .rolZp n => .mem (.zp n)
  | .rolZpx n => .mem (.zpx n)
  | .rolAbs nn => .mem (.abs nn)
  | .rolAbsx nn => .mem (.absx nn)
  | .rorAcc => .acc
  | .rorZp n => .mem (.zp n)
  | .rorZpx n => .mem (.zpx n)
  | .rorAbs nn => .mem (.abs nn)
  | .rorAbsx nn => .mem (.absx nn)
  | .bpl n => .rel n
  | .bmi n => .rel n
  | .bvc n => .rel n
  | .bvs n => .rel n
  | .bcc n => .rel n
  | .bcs n => .rel n
  | .bne n => .rel n
  | .beq n => .rel n
  | .jmpAbs nn => .mem (.abs nn)
  | .jmpInd nn => .ind nn
  | .jsr nn => .mem (.abs nn)
  | .rts => .imp
  | .clc => .imp
  | .sec => .imp
  | .cli => .imp
  | .sei => .imp
  | .cld => .imp
  | .sed => .imp
  | .clv => .imp
  | .nop => .imp
  | .brk => .imp
  | .rti => .imp

/-- The length in bytes, fixed by the form (R81, R82). -/
def Instr.length (i : Instr) : Nat := i.form.length

end Sys2Proof
end

