-- ==== Sys2Proof/Machine/Operands.lean ====
section
/-! DEFINITION. Every operand form: its effective address and its value (R91 to R104), and the shared shapes of an
instruction that reads, stores or modifies its operand. -/

namespace Sys2Proof.Machine

/-- The address of the second byte of a pointer at `p`, where the machine reads one (R101): the next location, or, past
the end of a page, offset 0 of the same page. -/
def ptrHighAddr (p : Word) : Word := if lowByte p = 0xFF#8 then word (highByte p) 0x00#8 else p + 1#16

/-- `ReadPtr(p)` (R101). -/
def readPtr (p : Word) (s : State) : Access Word :=
  bindNext (read p s) fun (lo, s) =>
  if lowByte p = 0xFF#8 ∧ s.cfg.ptrPageCross = .fault then .fault (.pointerPageCross p)
  else bindNext (read (ptrHighAddr p) s) fun (hi, s) => .next (word hi lo, s)

/-- Some address in the page of `ea` or in the page before it is a device cell with side effects (R62). -/
def State.nearSideEffects (s : State) (ea : Word) : Bool :=
  (List.range 512).any fun k =>
    s.kindAt (word (highByte ea) 0x00#8 - 0x0100#16 + BitVec.ofNat 16 k) == .device true

/-- The bus accesses that the rules do not list could be observed, and the machine is set to refuse that (R62, U12). -/
def State.extraClash (s : State) (ea : Word) : Bool :=
  s.cfg.extraBus == .refuse && s.cfg.platform.hasSideEffects && s.nearSideEffects ea

/-- The effective address of an indexed, indirect or read-modify-write access, where the model makes the access
(R62). -/
def guardExtra (ea : Word) (s : State) : Access Word :=
  if s.extraClash ea then .refused (.deviceExtraAccess ea) else .next (ea, s)

/-- The effective address of a memory form (R94 to R100, R102). -/
def effectiveAddr (f : AddrForm) (s : State) : Access Word :=
  match f with
  | .zp n => .next (zext n, s)
  | .zpx n => guardExtra (zext (n + s.x)) s
  | .zpy n => guardExtra (zext (n + s.y)) s
  | .abs nn => .next (nn, s)
  | .absx nn => guardExtra (nn + zext s.x) s
  | .absy nn => guardExtra (nn + zext s.y) s
  | .indx n => bindNext (readPtr (zext (n + s.x)) s) fun (ea, s) => guardExtra ea s
  | .indy n => bindNext (readPtr (zext n) s) fun (base, s) => guardExtra (base + zext s.y) s

/-- An operand that an instruction reads: immediate or in memory. -/
inductive Operand where
  /-- `#n` (R93). -/
  | imm (n : Byte)
  /-- A memory form. -/
  | mem (f : AddrForm)
  deriving DecidableEq, Repr

/-- The length of an instruction with this operand (R81). -/
def Operand.length : Operand → Nat
  | .imm _ => 2
  | .mem f => f.length

/-- The operand value `M` (R93 to R102). -/
def Operand.value (o : Operand) (s : State) : Access Byte :=
  match o with
  | .imm n => .next (n, s)
  | .mem f => bindNext (effectiveAddr f s) fun (ea, s) => read ea s

/-- The target of a branch (R104). -/
def branchTarget (pc : Word) (n : Byte) : Word := pc + 2#16 + sext n

/-! ### The shapes of instructions -/

/-- An instruction of one byte that works on registers only. -/
def implied (s : State) : Result := .next (s.advance 1)

/-- An instruction that reads its operand and then changes registers and flags by `effect`. -/
def withOperand (o : Operand) (effect : Byte → State → State) (s : State) : Result :=
  bindNext (o.value s) fun (m, s) => .next ((effect m s).advance (o.length))

/-- An instruction that stores `v` at its effective address, without reading the cell (R113 to R115). -/
def storeAt (f : AddrForm) (v : Byte) (s : State) : Result :=
  bindNext (effectiveAddr f s) fun (ea, s) =>
  bindNext (write ea v s) fun s => .next (s.advance f.length)

/-- A read-modify-write instruction: one read of the effective address, then one write of it (R166). `op` gives, from
the operand and the flags, the result and the flags after. -/
def modifyAt (f : AddrForm) (op : Byte → Flags → Byte × Flags) (s : State) : Result :=
  bindNext (effectiveAddr f s) fun (ea, s) =>
  bindNext (guardExtra ea s) fun (ea, s) =>
  bindNext (read ea s) fun (m, s) =>
  bindNext (write ea (op m s.p).1 s) fun s => .next ((s.setP (op m s.p).2).advance f.length)

/-- The accumulator form of a shift (R92). -/
def modifyA (op : Byte → Flags → Byte × Flags) (s : State) : Result :=
  .next (((s.setA (op s.a s.p).1).setP (op s.a s.p).2).advance 1)

/-- A conditional branch (R180). -/
def branchIf (cond : Bool) (n : Byte) (s : State) : Result :=
  .next (if cond then s.jump (branchTarget s.pc n) else s.advance 2)

end Sys2Proof.Machine
end

