-- ==== Sys2Proof/Machine/ArithCompare.lean ====
section
/-! DEFINITION. The meanings of arithmetic and compare (R146, R148, R150 to R155). -/

namespace Sys2Proof.Machine

/-- CMP writes flags only (R153). -/
def cmpEffect (m : Byte) (s : State) : State := s.setP (compareFlags s.a m s.p)

/-- CPX writes flags only (R154). -/
def cpxEffect (m : Byte) (s : State) : State := s.setP (compareFlags s.x m s.p)

/-- CPY writes flags only (R155). -/
def cpyEffect (m : Byte) (s : State) : State := s.setP (compareFlags s.y m s.p)

/-- ADC #n (R146, R150, form R93). -/
def execAdcImm (n : Byte) (s : State) : Result := withOperand (.imm n) adcEffect s

/-- ADC n (R146, R150, form R94). -/
def execAdcZp (n : Byte) (s : State) : Result := withOperand (.mem (.zp n)) adcEffect s

/-- ADC n,X (R146, R150, form R95). -/
def execAdcZpx (n : Byte) (s : State) : Result := withOperand (.mem (.zpx n)) adcEffect s

/-- ADC nn (R146, R150, form R97). -/
def execAdcAbs (nn : Word) (s : State) : Result := withOperand (.mem (.abs nn)) adcEffect s

/-- ADC nn,X (R146, R150, form R98). -/
def execAdcAbsx (nn : Word) (s : State) : Result := withOperand (.mem (.absx nn)) adcEffect s

/-- ADC nn,Y (R146, R150, form R99). -/
def execAdcAbsy (nn : Word) (s : State) : Result := withOperand (.mem (.absy nn)) adcEffect s

/-- ADC (n,X) (R146, R150, form R100). -/
def execAdcIndx (n : Byte) (s : State) : Result := withOperand (.mem (.indx n)) adcEffect s

/-- ADC (n),Y (R146, R150, form R102). -/
def execAdcIndy (n : Byte) (s : State) : Result := withOperand (.mem (.indy n)) adcEffect s

/-- SBC #n (R148, R150, form R93). -/
def execSbcImm (n : Byte) (s : State) : Result := withOperand (.imm n) sbcEffect s

/-- SBC n (R148, R150, form R94). -/
def execSbcZp (n : Byte) (s : State) : Result := withOperand (.mem (.zp n)) sbcEffect s

/-- SBC n,X (R148, R150, form R95). -/
def execSbcZpx (n : Byte) (s : State) : Result := withOperand (.mem (.zpx n)) sbcEffect s

/-- SBC nn (R148, R150, form R97). -/
def execSbcAbs (nn : Word) (s : State) : Result := withOperand (.mem (.abs nn)) sbcEffect s

/-- SBC nn,X (R148, R150, form R98). -/
def execSbcAbsx (nn : Word) (s : State) : Result := withOperand (.mem (.absx nn)) sbcEffect s

/-- SBC nn,Y (R148, R150, form R99). -/
def execSbcAbsy (nn : Word) (s : State) : Result := withOperand (.mem (.absy nn)) sbcEffect s

/-- SBC (n,X) (R148, R150, form R100). -/
def execSbcIndx (n : Byte) (s : State) : Result := withOperand (.mem (.indx n)) sbcEffect s

/-- SBC (n),Y (R148, R150, form R102). -/
def execSbcIndy (n : Byte) (s : State) : Result := withOperand (.mem (.indy n)) sbcEffect s

/-- CMP #n (R153, form R93). -/
def execCmpImm (n : Byte) (s : State) : Result := withOperand (.imm n) cmpEffect s

/-- CMP n (R153, form R94). -/
def execCmpZp (n : Byte) (s : State) : Result := withOperand (.mem (.zp n)) cmpEffect s

/-- CMP n,X (R153, form R95). -/
def execCmpZpx (n : Byte) (s : State) : Result := withOperand (.mem (.zpx n)) cmpEffect s

/-- CMP nn (R153, form R97). -/
def execCmpAbs (nn : Word) (s : State) : Result := withOperand (.mem (.abs nn)) cmpEffect s

/-- CMP nn,X (R153, form R98). -/
def execCmpAbsx (nn : Word) (s : State) : Result := withOperand (.mem (.absx nn)) cmpEffect s

/-- CMP nn,Y (R153, form R99). -/
def execCmpAbsy (nn : Word) (s : State) : Result := withOperand (.mem (.absy nn)) cmpEffect s

/-- CMP (n,X) (R153, form R100). -/
def execCmpIndx (n : Byte) (s : State) : Result := withOperand (.mem (.indx n)) cmpEffect s

/-- CMP (n),Y (R153, form R102). -/
def execCmpIndy (n : Byte) (s : State) : Result := withOperand (.mem (.indy n)) cmpEffect s

/-- CPX #n (R154, form R93). -/
def execCpxImm (n : Byte) (s : State) : Result := withOperand (.imm n) cpxEffect s

/-- CPX n (R154, form R94). -/
def execCpxZp (n : Byte) (s : State) : Result := withOperand (.mem (.zp n)) cpxEffect s

/-- CPX nn (R154, form R97). -/
def execCpxAbs (nn : Word) (s : State) : Result := withOperand (.mem (.abs nn)) cpxEffect s

/-- CPY #n (R155, form R93). -/
def execCpyImm (n : Byte) (s : State) : Result := withOperand (.imm n) cpyEffect s

/-- CPY n (R155, form R94). -/
def execCpyZp (n : Byte) (s : State) : Result := withOperand (.mem (.zp n)) cpyEffect s

/-- CPY nn (R155, form R97). -/
def execCpyAbs (nn : Word) (s : State) : Result := withOperand (.mem (.abs nn)) cpyEffect s

end Sys2Proof.Machine
end

