-- ==== Sys2Proof/Machine/BranchJump.lean ====
section
/-! DEFINITION. The meanings of branches, jumps and subroutines (R180 to R192). -/

namespace Sys2Proof.Machine

/-- The address `a` names a cell that a push to the address `b` could change. -/
def State.pushChanges (s : State) (a b : Word) : Bool :=
  s.cell a == s.cell b && s.kindAt b != .rom && s.kindAt b != .unpopulated

/-- An operand byte of the JSR at PC lies in one of the two stack cells it writes (R191, U13). -/
def State.jsrOverlap (s : State) : Bool :=
  s.pushChanges (s.pc + 1#16) (stackAddr s.sp) || s.pushChanges (s.pc + 1#16) (stackAddr (s.sp - 1#8)) ||
    s.pushChanges (s.pc + 2#16) (stackAddr s.sp) || s.pushChanges (s.pc + 2#16) (stackAddr (s.sp - 1#8))

/-- BPL n (R181, form R104). -/
def execBpl (n : Byte) (s : State) : Result := branchIf (!s.p.n) n s

/-- BMI n (R182, form R104). -/
def execBmi (n : Byte) (s : State) : Result := branchIf s.p.n n s

/-- BVC n (R183, form R104). -/
def execBvc (n : Byte) (s : State) : Result := branchIf (!s.p.v) n s

/-- BVS n (R184, form R104). -/
def execBvs (n : Byte) (s : State) : Result := branchIf s.p.v n s

/-- BCC n (R185, form R104). -/
def execBcc (n : Byte) (s : State) : Result := branchIf (!s.p.c) n s

/-- BCS n (R186, form R104). -/
def execBcs (n : Byte) (s : State) : Result := branchIf s.p.c n s

/-- BNE n (R187, form R104). -/
def execBne (n : Byte) (s : State) : Result := branchIf (!s.p.z) n s

/-- BEQ n (R188, form R104). -/
def execBeq (n : Byte) (s : State) : Result := branchIf s.p.z n s

/-- JMP nn (R189, form R97). -/
def execJmpAbs (nn : Word) (s : State) : Result := .next (s.jump nn)

/-- JMP (nn) (R190, form R103). -/
def execJmpInd (nn : Word) (s : State) : Result :=
  bindNext (readPtr nn s) fun (target, s) => .next (s.jump target)

/-- JSR nn (R191, form R97). -/
def execJsr (nn : Word) (s : State) : Result :=
  if s.jsrOverlap then .refused (.jsrOverwritesOperand s.pc)
  else bindNext (pushWord (s.pc + 2#16) s) fun s => .next (s.jump nn)

/-- RTS (R192, form R91). -/
def execRts (s : State) : Result :=
  bindNext (pullWord s) fun (ret, s) => .next (s.jump (ret + 1#16))

end Sys2Proof.Machine
end

