-- ==== Sys2Proof/Machine/FlagSystem.lean ====
section
/-! DEFINITION. The meanings of flags, NOP, BRK and RTI (R200 to R209). -/

namespace Sys2Proof.Machine

/-- CLC (R200, form R91). -/
def execClc (s : State) : Result := implied (s.setP { s.p with c := false })

/-- SEC (R201, form R91). -/
def execSec (s : State) : Result := implied (s.setP { s.p with c := true })

/-- CLI (R202, form R91). -/
def execCli (s : State) : Result :=
  .next ((s.setP { s.p with i := false }).advanceLagged s.p.i)

/-- SEI (R203, form R91). -/
def execSei (s : State) : Result :=
  .next ((s.setP { s.p with i := true }).advanceLagged s.p.i)

/-- CLD (R204, form R91). -/
def execCld (s : State) : Result := implied (s.setP { s.p with d := false })

/-- SED (R205, form R91). -/
def execSed (s : State) : Result := implied (s.setP { s.p with d := true })

/-- CLV (R206, form R91). -/
def execClv (s : State) : Result := implied (s.setP { s.p with v := false })

/-- NOP (R207, form R91). -/
def execNop (s : State) : Result := implied s

/-- BRK (R208, form R91). -/
def execBrk (s : State) : Result := enter (s.pc + 2#16) true irqVector s

/-- RTI (R209, form R91). -/
def execRti (s : State) : Result := returnFrom s

end Sys2Proof.Machine
end

