-- ==== Sys2Proof/Machine/IncDec.lean ====
section
/-! DEFINITION. The meanings of increment and decrement (R160 to R165). -/

namespace Sys2Proof.Machine

/-- INC n (R160, form R94). -/
def execIncZp (n : Byte) (s : State) : Result := modifyAt (.zp n) incOp s

/-- INC n,X (R160, form R95). -/
def execIncZpx (n : Byte) (s : State) : Result := modifyAt (.zpx n) incOp s

/-- INC nn (R160, form R97). -/
def execIncAbs (nn : Word) (s : State) : Result := modifyAt (.abs nn) incOp s

/-- INC nn,X (R160, form R98). -/
def execIncAbsx (nn : Word) (s : State) : Result := modifyAt (.absx nn) incOp s

/-- INX (R161, form R91). -/
def execInx (s : State) : Result := implied ((s.setX (s.x + 1#8)).setNZ (s.x + 1#8))

/-- INY (R162, form R91). -/
def execIny (s : State) : Result := implied ((s.setY (s.y + 1#8)).setNZ (s.y + 1#8))

/-- DEC n (R163, form R94). -/
def execDecZp (n : Byte) (s : State) : Result := modifyAt (.zp n) decOp s

/-- DEC n,X (R163, form R95). -/
def execDecZpx (n : Byte) (s : State) : Result := modifyAt (.zpx n) decOp s

/-- DEC nn (R163, form R97). -/
def execDecAbs (nn : Word) (s : State) : Result := modifyAt (.abs nn) decOp s

/-- DEC nn,X (R163, form R98). -/
def execDecAbsx (nn : Word) (s : State) : Result := modifyAt (.absx nn) decOp s

/-- DEX (R164, form R91). -/
def execDex (s : State) : Result := implied ((s.setX (s.x - 1#8)).setNZ (s.x - 1#8))

/-- DEY (R165, form R91). -/
def execDey (s : State) : Result := implied ((s.setY (s.y - 1#8)).setNZ (s.y - 1#8))

end Sys2Proof.Machine
end

