-- ==== Sys2Proof/Machine/LoadStore.lean ====
section
/-! DEFINITION. The meanings of load and store (R110 to R115). -/

namespace Sys2Proof.Machine

/-- `A <- M ; SetNZ(A)` (R110). -/
def loadA (m : Byte) (s : State) : State := (s.setA m).setNZ m

/-- `X <- M ; SetNZ(X)` (R111). -/
def loadX (m : Byte) (s : State) : State := (s.setX m).setNZ m

/-- `Y <- M ; SetNZ(Y)` (R112). -/
def loadY (m : Byte) (s : State) : State := (s.setY m).setNZ m

/-- LDA #n (R110, form R93). -/
def execLdaImm (n : Byte) (s : State) : Result := withOperand (.imm n) loadA s

/-- LDA n (R110, form R94). -/
def execLdaZp (n : Byte) (s : State) : Result := withOperand (.mem (.zp n)) loadA s

/-- LDA n,X (R110, form R95). -/
def execLdaZpx (n : Byte) (s : State) : Result := withOperand (.mem (.zpx n)) loadA s

/-- LDA nn (R110, form R97). -/
def execLdaAbs (nn : Word) (s : State) : Result := withOperand (.mem (.abs nn)) loadA s

/-- LDA nn,X (R110, form R98). -/
def execLdaAbsx (nn : Word) (s : State) : Result := withOperand (.mem (.absx nn)) loadA s

/-- LDA nn,Y (R110, form R99). -/
def execLdaAbsy (nn : Word) (s : State) : Result := withOperand (.mem (.absy nn)) loadA s

/-- LDA (n,X) (R110, form R100). -/
def execLdaIndx (n : Byte) (s : State) : Result := withOperand (.mem (.indx n)) loadA s

/-- LDA (n),Y (R110, form R102). -/
def execLdaIndy (n : Byte) (s : State) : Result := withOperand (.mem (.indy n)) loadA s

/-- LDX #n (R111, form R93). -/
def execLdxImm (n : Byte) (s : State) : Result := withOperand (.imm n) loadX s

/-- LDX n (R111, form R94). -/
def execLdxZp (n : Byte) (s : State) : Result := withOperand (.mem (.zp n)) loadX s

/-- LDX n,Y (R111, form R96). -/
def execLdxZpy (n : Byte) (s : State) : Result := withOperand (.mem (.zpy n)) loadX s

/-- LDX nn (R111, form R97). -/
def execLdxAbs (nn : Word) (s : State) : Result := withOperand (.mem (.abs nn)) loadX s

/-- LDX nn,Y (R111, form R99). -/
def execLdxAbsy (nn : Word) (s : State) : Result := withOperand (.mem (.absy nn)) loadX s

/-- LDY #n (R112, form R93). -/
def execLdyImm (n : Byte) (s : State) : Result := withOperand (.imm n) loadY s

/-- LDY n (R112, form R94). -/
def execLdyZp (n : Byte) (s : State) : Result := withOperand (.mem (.zp n)) loadY s

/-- LDY n,X (R112, form R95). -/
def execLdyZpx (n : Byte) (s : State) : Result := withOperand (.mem (.zpx n)) loadY s

/-- LDY nn (R112, form R97). -/
def execLdyAbs (nn : Word) (s : State) : Result := withOperand (.mem (.abs nn)) loadY s

/-- LDY nn,X (R112, form R98). -/
def execLdyAbsx (nn : Word) (s : State) : Result := withOperand (.mem (.absx nn)) loadY s

/-- STA n (R113, form R94). -/
def execStaZp (n : Byte) (s : State) : Result := storeAt (.zp n) s.a s

/-- STA n,X (R113, form R95). -/
def execStaZpx (n : Byte) (s : State) : Result := storeAt (.zpx n) s.a s

/-- STA nn (R113, form R97). -/
def execStaAbs (nn : Word) (s : State) : Result := storeAt (.abs nn) s.a s

/-- STA nn,X (R113, form R98). -/
def execStaAbsx (nn : Word) (s : State) : Result := storeAt (.absx nn) s.a s

/-- STA nn,Y (R113, form R99). -/
def execStaAbsy (nn : Word) (s : State) : Result := storeAt (.absy nn) s.a s

/-- STA (n,X) (R113, form R100). -/
def execStaIndx (n : Byte) (s : State) : Result := storeAt (.indx n) s.a s

/-- STA (n),Y (R113, form R102). -/
def execStaIndy (n : Byte) (s : State) : Result := storeAt (.indy n) s.a s

/-- STX n (R114, form R94). -/
def execStxZp (n : Byte) (s : State) : Result := storeAt (.zp n) s.x s

/-- STX n,Y (R114, form R96). -/
def execStxZpy (n : Byte) (s : State) : Result := storeAt (.zpy n) s.x s

/-- STX nn (R114, form R97). -/
def execStxAbs (nn : Word) (s : State) : Result := storeAt (.abs nn) s.x s

/-- STY n (R115, form R94). -/
def execStyZp (n : Byte) (s : State) : Result := storeAt (.zp n) s.y s

/-- STY n,X (R115, form R95). -/
def execStyZpx (n : Byte) (s : State) : Result := storeAt (.zpx n) s.y s

/-- STY nn (R115, form R97). -/
def execStyAbs (nn : Word) (s : State) : Result := storeAt (.abs nn) s.y s

end Sys2Proof.Machine
end

