-- ==== Sys2Proof/Machine/Logic.lean ====
section
/-! DEFINITION. The meanings of logic (R135 to R138). -/

namespace Sys2Proof.Machine

/-- `A <- A & M ; SetNZ(A)` (R135). -/
def andEffect (m : Byte) (s : State) : State := (s.setA (s.a &&& m)).setNZ (s.a &&& m)

/-- `A <- A | M ; SetNZ(A)` (R136). -/
def oraEffect (m : Byte) (s : State) : State := (s.setA (s.a ||| m)).setNZ (s.a ||| m)

/-- `A <- A ^ M ; SetNZ(A)` (R137). -/
def eorEffect (m : Byte) (s : State) : State := (s.setA (s.a ^^^ m)).setNZ (s.a ^^^ m)

/-- BIT writes flags only (R138). -/
def bitEffect (m : Byte) (s : State) : State := s.setP (bitFlags s.a m s.p)

/-- AND #n (R135, form R93). -/
def execAndImm (n : Byte) (s : State) : Result := withOperand (.imm n) andEffect s

/-- AND n (R135, form R94). -/
def execAndZp (n : Byte) (s : State) : Result := withOperand (.mem (.zp n)) andEffect s

/-- AND n,X (R135, form R95). -/
def execAndZpx (n : Byte) (s : State) : Result := withOperand (.mem (.zpx n)) andEffect s

/-- AND nn (R135, form R97). -/
def execAndAbs (nn : Word) (s : State) : Result := withOperand (.mem (.abs nn)) andEffect s

/-- AND nn,X (R135, form R98). -/
def execAndAbsx (nn : Word) (s : State) : Result := withOperand (.mem (.absx nn)) andEffect s

/-- AND nn,Y (R135, form R99). -/
def execAndAbsy (nn : Word) (s : State) : Result := withOperand (.mem (.absy nn)) andEffect s

/-- AND (n,X) (R135, form R100). -/
def execAndIndx (n : Byte) (s : State) : Result := withOperand (.mem (.indx n)) andEffect s

/-- AND (n),Y (R135, form R102). -/
def execAndIndy (n : Byte) (s : State) : Result := withOperand (.mem (.indy n)) andEffect s

/-- ORA #n (R136, form R93). -/
def execOraImm (n : Byte) (s : State) : Result := withOperand (.imm n) oraEffect s

/-- ORA n (R136, form R94). -/
def execOraZp (n : Byte) (s : State) : Result := withOperand (.mem (.zp n)) oraEffect s

/-- ORA n,X (R136, form R95). -/
def execOraZpx (n : Byte) (s : State) : Result := withOperand (.mem (.zpx n)) oraEffect s

/-- ORA nn (R136, form R97). -/
def execOraAbs (nn : Word) (s : State) : Result := withOperand (.mem (.abs nn)) oraEffect s

/-- ORA nn,X (R136, form R98). -/
def execOraAbsx (nn : Word) (s : State) : Result := withOperand (.mem (.absx nn)) oraEffect s

/-- ORA nn,Y (R136, form R99). -/
def execOraAbsy (nn : Word) (s : State) : Result := withOperand (.mem (.absy nn)) oraEffect s

/-- ORA (n,X) (R136, form R100). -/
def execOraIndx (n : Byte) (s : State) : Result := withOperand (.mem (.indx n)) oraEffect s

/-- ORA (n),Y (R136, form R102). -/
def execOraIndy (n : Byte) (s : State) : Result := withOperand (.mem (.indy n)) oraEffect s

/-- EOR #n (R137, form R93). -/
def execEorImm (n : Byte) (s : State) : Result := withOperand (.imm n) eorEffect s

/-- EOR n (R137, form R94). -/
def execEorZp (n : Byte) (s : State) : Result := withOperand (.mem (.zp n)) eorEffect s

/-- EOR n,X (R137, form R95). -/
def execEorZpx (n : Byte) (s : State) : Result := withOperand (.mem (.zpx n)) eorEffect s

/-- EOR nn (R137, form R97). -/
def execEorAbs (nn : Word) (s : State) : Result := withOperand (.mem (.abs nn)) eorEffect s

/-- EOR nn,X (R137, form R98). -/
def execEorAbsx (nn : Word) (s : State) : Result := withOperand (.mem (.absx nn)) eorEffect s

/-- EOR nn,Y (R137, form R99). -/
def execEorAbsy (nn : Word) (s : State) : Result := withOperand (.mem (.absy nn)) eorEffect s

/-- EOR (n,X) (R137, form R100). -/
def execEorIndx (n : Byte) (s : State) : Result := withOperand (.mem (.indx n)) eorEffect s

/-- EOR (n),Y (R137, form R102). -/
def execEorIndy (n : Byte) (s : State) : Result := withOperand (.mem (.indy n)) eorEffect s

/-- BIT n (R138, form R94). -/
def execBitZp (n : Byte) (s : State) : Result := withOperand (.mem (.zp n)) bitEffect s

/-- BIT nn (R138, form R97). -/
def execBitAbs (nn : Word) (s : State) : Result := withOperand (.mem (.abs nn)) bitEffect s

end Sys2Proof.Machine
end

