-- ==== Sys2Proof/Machine/Shift.lean ====
section
/-! DEFINITION. The meanings of shift and rotate (R170 to R173). -/

namespace Sys2Proof.Machine

/-- ROR is an instruction only of a chip that has it (R6, R173). -/
def ifRor (opcode : Byte) (r : Result) (s : State) : Result :=
  if s.cfg.hasRor then r else .fault (.illegalOpcode opcode s.pc)

/-- ASL A (R170, form R92). -/
def execAslAcc (s : State) : Result := modifyA aslOp s

/-- ASL n (R170, form R94). -/
def execAslZp (n : Byte) (s : State) : Result := modifyAt (.zp n) aslOp s

/-- ASL n,X (R170, form R95). -/
def execAslZpx (n : Byte) (s : State) : Result := modifyAt (.zpx n) aslOp s

/-- ASL nn (R170, form R97). -/
def execAslAbs (nn : Word) (s : State) : Result := modifyAt (.abs nn) aslOp s

/-- ASL nn,X (R170, form R98). -/
def execAslAbsx (nn : Word) (s : State) : Result := modifyAt (.absx nn) aslOp s

/-- LSR A (R171, form R92). -/
def execLsrAcc (s : State) : Result := modifyA lsrOp s

/-- LSR n (R171, form R94). -/
def execLsrZp (n : Byte) (s : State) : Result := modifyAt (.zp n) lsrOp s

/-- LSR n,X (R171, form R95). -/
def execLsrZpx (n : Byte) (s : State) : Result := modifyAt (.zpx n) lsrOp s

/-- LSR nn (R171, form R97). -/
def execLsrAbs (nn : Word) (s : State) : Result := modifyAt (.abs nn) lsrOp s

/-- LSR nn,X (R171, form R98). -/
def execLsrAbsx (nn : Word) (s : State) : Result := modifyAt (.absx nn) lsrOp s

/-- ROL A (R172, form R92). -/
def execRolAcc (s : State) : Result := modifyA rolOp s

/-- ROL n (R172, form R94). -/
def execRolZp (n : Byte) (s : State) : Result := modifyAt (.zp n) rolOp s

/-- ROL n,X (R172, form R95). -/
def execRolZpx (n : Byte) (s : State) : Result := modifyAt (.zpx n) rolOp s

/-- ROL nn (R172, form R97). -/
def execRolAbs (nn : Word) (s : State) : Result := modifyAt (.abs nn) rolOp s

/-- ROL nn,X (R172, form R98). -/
def execRolAbsx (nn : Word) (s : State) : Result := modifyAt (.absx nn) rolOp s

/-- ROR A (R173, form R92). -/
def execRorAcc (s : State) : Result := ifRor 0x6A#8 (modifyA rorOp s) s

/-- ROR n (R173, form R94). -/
def execRorZp (n : Byte) (s : State) : Result := ifRor 0x66#8 (modifyAt (.zp n) rorOp s) s

/-- ROR n,X (R173, form R95). -/
def execRorZpx (n : Byte) (s : State) : Result := ifRor 0x76#8 (modifyAt (.zpx n) rorOp s) s

/-- ROR nn (R173, form R97). -/
def execRorAbs (nn : Word) (s : State) : Result := ifRor 0x6E#8 (modifyAt (.abs nn) rorOp s) s

/-- ROR nn,X (R173, form R98). -/
def execRorAbsx (nn : Word) (s : State) : Result := ifRor 0x7E#8 (modifyAt (.absx nn) rorOp s) s

end Sys2Proof.Machine
end

