-- ==== Sys2Proof/Machine/TransferStack.lean ====
section
/-! DEFINITION. The meanings of register transfers and the stack (R120 to R129). -/

namespace Sys2Proof.Machine

/-- TAX (R120, form R91). -/
def execTax (s : State) : Result := implied ((s.setX s.a).setNZ s.a)

/-- TAY (R121, form R91). -/
def execTay (s : State) : Result := implied ((s.setY s.a).setNZ s.a)

/-- TXA (R122, form R91). -/
def execTxa (s : State) : Result := implied ((s.setA s.x).setNZ s.x)

/-- TYA (R123, form R91). -/
def execTya (s : State) : Result := implied ((s.setA s.y).setNZ s.y)

/-- TSX (R124, form R91). -/
def execTsx (s : State) : Result := implied ((s.setX s.sp).setNZ s.sp)

/-- TXS (R125, form R91). -/
def execTxs (s : State) : Result := implied (s.setSp s.x)

/-- PHA (R126, form R91). -/
def execPha (s : State) : Result :=
  bindNext (push s.a s) fun s => implied s

/-- PHP (R127, form R91). -/
def execPhp (s : State) : Result :=
  bindNext (push (pByte s.p true) s) fun s => implied s

/-- PLA (R128, form R91). -/
def execPla (s : State) : Result :=
  bindNext (pull s) fun (v, s) => implied ((s.setA v).setNZ v)

/-- PLP (R129, form R91). -/
def execPlp (s : State) : Result :=
  bindNext (pull s) fun (v, s) => .next ((s.setP (flagsOf v)).advanceLagged s.p.i)

end Sys2Proof.Machine
end

