-- ==== Sys2Proof/Machine/Dispatch.lean ====
section
/-! DEFINITION. Every instruction is sent to its meaning. -/

namespace Sys2Proof.Machine

def exec (i : Instr) (s : State) : Host.Outcome State Fault Refusal :=
  match i with
  | .ldaImm n => Sys2Proof.Machine.execLdaImm n s
  | .ldaZp n => Sys2Proof.Machine.execLdaZp n s
  | .ldaZpx n => Sys2Proof.Machine.execLdaZpx n s
  | .ldaAbs nn => Sys2Proof.Machine.execLdaAbs nn s
  | .ldaAbsx nn => Sys2Proof.Machine.execLdaAbsx nn s
  | .ldaAbsy nn => Sys2Proof.Machine.execLdaAbsy nn s
  | .ldaIndx n => Sys2Proof.Machine.execLdaIndx n s
  | .ldaIndy n => Sys2Proof.Machine.execLdaIndy n s
  | .ldxImm n => Sys2Proof.Machine.execLdxImm n s
  | .ldxZp n => Sys2Proof.Machine.execLdxZp n s
  | .ldxZpy n => Sys2Proof.Machine.execLdxZpy n s
  | .ldxAbs nn => Sys2Proof.Machine.execLdxAbs nn s
  | .ldxAbsy nn => Sys2Proof.Machine.execLdxAbsy nn s
  | .ldyImm n => Sys2Proof.Machine.execLdyImm n s
  | .ldyZp n => Sys2Proof.Machine.execLdyZp n s
  | .ldyZpx n => Sys2Proof.Machine.execLdyZpx n s
  | .ldyAbs nn => Sys2Proof.Machine.execLdyAbs nn s
  | .ldyAbsx nn => Sys2Proof.Machine.execLdyAbsx nn s
  | .staZp n => Sys2Proof.Machine.execStaZp n s
  | .staZpx n => Sys2Proof.Machine.execStaZpx n s
  | .staAbs nn => Sys2Proof.Machine.execStaAbs nn s
  | .staAbsx nn => Sys2Proof.Machine.execStaAbsx nn s
  | .staAbsy nn => Sys2Proof.Machine.execStaAbsy nn s
  | .staIndx n => Sys2Proof.Machine.execStaIndx n s
  | .staIndy n => Sys2Proof.Machine.execStaIndy n s
  | .stxZp n => Sys2Proof.Machine.execStxZp n s
  | .stxZpy n => Sys2Proof.Machine.execStxZpy n s
  | .stxAbs nn => Sys2Proof.Machine.execStxAbs nn s
  | .styZp n => Sys2Proof.Machine.execStyZp n s
  | .styZpx n => Sys2Proof.Machine.execStyZpx n s
  | .styAbs nn => Sys2Proof.Machine.execStyAbs nn s
  | .tax => Sys2Proof.Machine.execTax s
  | .tay => Sys2Proof.Machine.execTay s
  | .txa => Sys2Proof.Machine.execTxa s
  | .tya => Sys2Proof.Machine.execTya s
  | .tsx => Sys2Proof.Machine.execTsx s
  | .txs => Sys2Proof.Machine.execTxs s
  | .pha => Sys2Proof.Machine.execPha s
  | .php => Sys2Proof.Machine.execPhp s
  | .pla => Sys2Proof.Machine.execPla s
  | .plp => Sys2Proof.Machine.execPlp s
  | .andImm n => Sys2Proof.Machine.execAndImm n s
  | .andZp n => Sys2Proof.Machine.execAndZp n s
  | .andZpx n => Sys2Proof.Machine.execAndZpx n s
  | .andAbs nn => Sys2Proof.Machine.execAndAbs nn s
  | .andAbsx nn => Sys2Proof.Machine.execAndAbsx nn s
  | .andAbsy nn => Sys2Proof.Machine.execAndAbsy nn s
  | .andIndx n => Sys2Proof.Machine.execAndIndx n s
  | .andIndy n => Sys2Proof.Machine.execAndIndy n s
  | .oraImm n => Sys2Proof.Machine.execOraImm n s
  | .oraZp n => Sys2Proof.Machine.execOraZp n s
  | .oraZpx n => Sys2Proof.Machine.execOraZpx n s
  | .oraAbs nn => Sys2Proof.Machine.execOraAbs nn s
  | .oraAbsx nn => Sys2Proof.Machine.execOraAbsx nn s
  | .oraAbsy nn => Sys2Proof.Machine.execOraAbsy nn s
  | .oraIndx n => Sys2Proof.Machine.execOraIndx n s
  | .oraIndy n => Sys2Proof.Machine.execOraIndy n s
  | .eorImm n => Sys2Proof.Machine.execEorImm n s
  | .eorZp n => Sys2Proof.Machine.execEorZp n s
  | .eorZpx n => Sys2Proof.Machine.execEorZpx n s
  | .eorAbs nn => Sys2Proof.Machine.execEorAbs nn s
  | .eorAbsx nn => Sys2Proof.Machine.execEorAbsx nn s
  | .eorAbsy nn => Sys2Proof.Machine.execEorAbsy nn s
  | .eorIndx n => Sys2Proof.Machine.execEorIndx n s
  | .eorIndy n => Sys2Proof.Machine.execEorIndy n s
  | .bitZp n => Sys2Proof.Machine.execBitZp n s
  | .bitAbs nn => Sys2Proof.Machine.execBitAbs nn s
  | .adcImm n => Sys2Proof.Machine.execAdcImm n s
  | .adcZp n => Sys2Proof.Machine.execAdcZp n s
  | .adcZpx n => Sys2Proof.Machine.execAdcZpx n s
  | .adcAbs nn => Sys2Proof.Machine.execAdcAbs nn s
  | .adcAbsx nn => Sys2Proof.Machine.execAdcAbsx nn s
  | .adcAbsy nn => Sys2Proof.Machine.execAdcAbsy nn s
  | .adcIndx n => Sys2Proof.Machine.execAdcIndx n s
  | .adcIndy n => Sys2Proof.Machine.execAdcIndy n s
  | .sbcImm n => Sys2Proof.Machine.execSbcImm n s
  | .sbcZp n => Sys2Proof.Machine.execSbcZp n s
  | .sbcZpx n => Sys2Proof.Machine.execSbcZpx n s
  | .sbcAbs nn => Sys2Proof.Machine.execSbcAbs nn s
  | .sbcAbsx nn => Sys2Proof.Machine.execSbcAbsx nn s
  | .sbcAbsy nn => Sys2Proof.Machine.execSbcAbsy nn s
  | .sbcIndx n => Sys2Proof.Machine.execSbcIndx n s
  | .sbcIndy n => Sys2Proof.Machine.execSbcIndy n s
  | .cmpImm n => Sys2Proof.Machine.execCmpImm n s
  | .cmpZp n => Sys2Proof.Machine.execCmpZp n s
  | .cmpZpx n => Sys2Proof.Machine.execCmpZpx n s
  | .cmpAbs nn => Sys2Proof.Machine.execCmpAbs nn s
  | .cmpAbsx nn => Sys2Proof.Machine.execCmpAbsx nn s
  | .cmpAbsy nn => Sys2Proof.Machine.execCmpAbsy nn s
  | .cmpIndx n => Sys2Proof.Machine.execCmpIndx n s
  | .cmpIndy n => Sys2Proof.Machine.execCmpIndy n s
  | .cpxImm n => Sys2Proof.Machine.execCpxImm n s
  | .cpxZp n => Sys2Proof.Machine.execCpxZp n s
  | .cpxAbs nn => Sys2Proof.Machine.execCpxAbs nn s
  | .cpyImm n => Sys2Proof.Machine.execCpyImm n s
  | .cpyZp n => Sys2Proof.Machine.execCpyZp n s
  | .cpyAbs nn => Sys2Proof.Machine.execCpyAbs nn s
  | .incZp n => Sys2Proof.Machine.execIncZp n s
  | .incZpx n => Sys2Proof.Machine.execIncZpx n s
  | .incAbs nn => Sys2Proof.Machine.execIncAbs nn s
  | .incAbsx nn => Sys2Proof.Machine.execIncAbsx nn s
  | .inx => Sys2Proof.Machine.execInx s
  | .iny => Sys2Proof.Machine.execIny s
  | .decZp n => Sys2Proof.Machine.execDecZp n s
  | .decZpx n => Sys2Proof.Machine.execDecZpx n s
  | .decAbs nn => Sys2Proof.Machine.execDecAbs nn s
  | .decAbsx nn => Sys2Proof.Machine.execDecAbsx nn s
  | .dex => Sys2Proof.Machine.execDex s
  | .dey => Sys2Proof.Machine.execDey s
  | .aslAcc => Sys2Proof.Machine.execAslAcc s
  | .aslZp n => Sys2Proof.Machine.execAslZp n s
  | .aslZpx n => Sys2Proof.Machine.execAslZpx n s
  | .aslAbs nn => Sys2Proof.Machine.execAslAbs nn s
  | .aslAbsx nn => Sys2Proof.Machine.execAslAbsx nn s
  | .lsrAcc => Sys2Proof.Machine.execLsrAcc s
  | .lsrZp n => Sys2Proof.Machine.execLsrZp n s
  | .lsrZpx n => Sys2Proof.Machine.execLsrZpx n s
  | .lsrAbs nn => Sys2Proof.Machine.execLsrAbs nn s
  | .lsrAbsx nn => Sys2Proof.Machine.execLsrAbsx nn s
  | .rolAcc => Sys2Proof.Machine.execRolAcc s
  | .rolZp n => Sys2Proof.Machine.execRolZp n s
  | .rolZpx n => Sys2Proof.Machine.execRolZpx n s
  | .rolAbs nn => Sys2Proof.Machine.execRolAbs nn s
  | .rolAbsx nn => Sys2Proof.Machine.execRolAbsx nn s
  | .rorAcc => Sys2Proof.Machine.execRorAcc s
  | .rorZp n => Sys2Proof.Machine.execRorZp n s
  | .rorZpx n => Sys2Proof.Machine.execRorZpx n s
  | .rorAbs nn => Sys2Proof.Machine.execRorAbs nn s
  | .rorAbsx nn => Sys2Proof.Machine.execRorAbsx nn s
  | .bpl n => Sys2Proof.Machine.execBpl n s
  | .bmi n => Sys2Proof.Machine.execBmi n s
  | .bvc n => Sys2Proof.Machine.execBvc n s
  | .bvs n => Sys2Proof.Machine.execBvs n s
  | .bcc n => Sys2Proof.Machine.execBcc n s
  | .bcs n => Sys2Proof.Machine.execBcs n s
  | .bne n => Sys2Proof.Machine.execBne n s
  | .beq n => Sys2Proof.Machine.execBeq n s
  | .jmpAbs nn => Sys2Proof.Machine.execJmpAbs nn s
  | .jmpInd nn => Sys2Proof.Machine.execJmpInd nn s
  | .jsr nn => Sys2Proof.Machine.execJsr nn s
  | .rts => Sys2Proof.Machine.execRts s
  | .clc => Sys2Proof.Machine.execClc s
  | .sec => Sys2Proof.Machine.execSec s
  | .cli => Sys2Proof.Machine.execCli s
  | .sei => Sys2Proof.Machine.execSei s
  | .cld => Sys2Proof.Machine.execCld s
  | .sed => Sys2Proof.Machine.execSed s
  | .clv => Sys2Proof.Machine.execClv s
  | .nop => Sys2Proof.Machine.execNop s
  | .brk => Sys2Proof.Machine.execBrk s
  | .rti => Sys2Proof.Machine.execRti s

end Sys2Proof.Machine
end

