-- ==== Sys2Proof/Decode.lean ====
section
/-! DEFINITION. The decoder (R80 to R84, R88, R89): from bytes to an instruction, total, refusing by name; then the
encoder; then the host's entry point. -/

namespace Sys2Proof

/-- What the first byte of an instruction fixes: the whole instruction, or the instruction once its operand byte or its
operand word is known (R82, R83). -/
inductive Shape where
  /-- One byte long. -/
  | one (i : Instr)
  /-- Two bytes long. -/
  | two (f : Byte → Instr)
  /-- Three bytes long. -/
  | three (f : Word → Instr)

/-- Why bytes are not an instruction. -/
inductive DecodeError where
  /-- The first byte is one of the 105 blank cells of the chart (R89). -/
  | illegalOpcode (opcode : Byte)
  /-- There are fewer bytes than the instruction has. -/
  | truncated
  deriving DecidableEq, Repr

/-- Row 0- of the opcode chart (R88). -/
def chartRow0 : List (Byte × Shape) := [
  (0x00#8, .one .brk),
  (0x01#8, .two .oraIndx),
  (0x05#8, .two .oraZp),
  (0x06#8, .two .aslZp),
  (0x08#8, .one .php),
  (0x09#8, .two .oraImm),
  (0x0A#8, .one .aslAcc),
  (0x0D#8, .three .oraAbs),
  (0x0E#8, .three .aslAbs)]

/-- Row 1- of the opcode chart (R88). -/
def chartRow1 : List (Byte × Shape) := [
  (0x10#8, .two .bpl),
  (0x11#8, .two .oraIndy),
  (0x15#8, .two .oraZpx),
  (0x16#8, .two .aslZpx),
  (0x18#8, .one .clc),
  (0x19#8, .three .oraAbsy),
  (0x1D#8, .three .oraAbsx),
  (0x1E#8, .three .aslAbsx)]

/-- Row 2- of the opcode chart (R88). -/
def chartRow2 : List (Byte × Shape) := [
  (0x20#8, .three .jsr),
  (0x21#8, .two .andIndx),
  (0x24#8, .two .bitZp),
  (0x25#8, .two .andZp),
  (0x26#8, .two .rolZp),
  (0x28#8, .one .plp),
  (0x29#8, .two .andImm),
  (0x2A#8, .one .rolAcc),
  (0x2C#8, .three .bitAbs),
  (0x2D#8, .three .andAbs),
  (0x2E#8, .three .rolAbs)]

/-- Row 3- of the opcode chart (R88). -/
def chartRow3 : List (Byte × Shape) := [
  (0x30#8, .two .bmi),
  (0x31#8, .two .andIndy),
  (0x35#8, .two .andZpx),
  (0x36#8, .two .rolZpx),
  (0x38#8, .one .sec),
  (0x39#8, .three .andAbsy),
  (0x3D#8, .three .andAbsx),
  (0x3E#8, .three .rolAbsx)]

/-- Row 4- of the opcode chart (R88). -/
def chartRow4 : List (Byte × Shape) := [
  (0x40#8, .one .rti),
  (0x41#8, .two .eorIndx),
  (0x45#8, .two .eorZp),
  (0x46#8, .two .lsrZp),
  (0x48#8, .one .pha),
  (0x49#8, .two .eorImm),
  (0x4A#8, .one .lsrAcc),
  (0x4C#8, .three .jmpAbs),
  (0x4D#8, .three .eorAbs),
  (0x4E#8, .three .lsrAbs)]

/-- Row 5- of the opcode chart (R88). -/
def chartRow5 : List (Byte × Shape) := [
  (0x50#8, .two .bvc),
  (0x51#8, .two .eorIndy),
  (0x55#8, .two .eorZpx),
  (0x56#8, .two .lsrZpx),
  (0x58#8, .one .cli),
  (0x59#8, .three .eorAbsy),
  (0x5D#8, .three .eorAbsx),
  (0x5E#8, .three .lsrAbsx)]

/-- Row 6- of the opcode chart (R88). -/
def chartRow6 : List (Byte × Shape) := [
  (0x60#8, .one .rts),
  (0x61#8, .two .adcIndx),
  (0x65#8, .two .adcZp),
  (0x66#8, .two .rorZp),
  (0x68#8, .one .pla),
  (0x69#8, .two .adcImm),
  (0x6A#8, .one .rorAcc),
  (0x6C#8, .three .jmpInd),
  (0x6D#8, .three .adcAbs),
  (0x6E#8, .three .rorAbs)]

/-- Row 7- of the opcode chart (R88). -/
def chartRow7 : List (Byte × Shape) := [
  (0x70#8, .two .bvs),
  (0x71#8, .two .adcIndy),
  (0x75#8, .two .adcZpx),
  (0x76#8, .two .rorZpx),
  (0x78#8, .one .sei),
  (0x79#8, .three .adcAbsy),
  (0x7D#8, .three .adcAbsx),
  (0x7E#8, .three .rorAbsx)]

/-- Row 8- of the opcode chart (R88). -/
def chartRow8 : List (Byte × Shape) := [
  (0x81#8, .two .staIndx),
  (0x84#8, .two .styZp),
  (0x85#8, .two .staZp),
  (0x86#8, .two .stxZp),
  (0x88#8, .one .dey),
  (0x8A#8, .one .txa),
  (0x8C#8, .three .styAbs),
  (0x8D#8, .three .staAbs),
  (0x8E#8, .three .stxAbs)]

/-- Row 9- of the opcode chart (R88). -/
def chartRow9 : List (Byte × Shape) := [
  (0x90#8, .two .bcc),
  (0x91#8, .two .staIndy),
  (0x94#8, .two .styZpx),
  (0x95#8, .two .staZpx),
  (0x96#8, .two .stxZpy),
  (0x98#8, .one .tya),
  (0x99#8, .three .staAbsy),
  (0x9A#8, .one .txs),
  (0x9D#8, .three .staAbsx)]

/-- Row A- of the opcode chart (R88). -/
def chartRowA : List (Byte × Shape) := [
  (0xA0#8, .two .ldyImm),
  (0xA1#8, .two .ldaIndx),
  (0xA2#8, .two .ldxImm),
  (0xA4#8, .two .ldyZp),
  (0xA5#8, .two .ldaZp),
  (0xA6#8, .two .ldxZp),
  (0xA8#8, .one .tay),
  (0xA9#8, .two .ldaImm),
  (0xAA#8, .one .tax),
  (0xAC#8, .three .ldyAbs),
  (0xAD#8, .three .ldaAbs),
  (0xAE#8, .three .ldxAbs)]

/-- Row B- of the opcode chart (R88). -/
def chartRowB : List (Byte × Shape) := [
  (0xB0#8, .two .bcs),
  (0xB1#8, .two .ldaIndy),
  (0xB4#8, .two .ldyZpx),
  (0xB5#8, .two .ldaZpx),
  (0xB6#8, .two .ldxZpy),
  (0xB8#8, .one .clv),
  (0xB9#8, .three .ldaAbsy),
  (0xBA#8, .one .tsx),
  (0xBC#8, .three .ldyAbsx),
  (0xBD#8, .three .ldaAbsx),
  (0xBE#8, .three .ldxAbsy)]

/-- Row C- of the opcode chart (R88). -/
def chartRowC : List (Byte × Shape) := [
  (0xC0#8, .two .cpyImm),
  (0xC1#8, .two .cmpIndx),
  (0xC4#8, .two .cpyZp),
  (0xC5#8, .two .cmpZp),
  (0xC6#8, .two .decZp),
  (0xC8#8, .one .iny),
  (0xC9#8, .two .cmpImm),
  (0xCA#8, .one .dex),
  (0xCC#8, .three .cpyAbs),
  (0xCD#8, .three .cmpAbs),
  (0xCE#8, .three .decAbs)]

/-- Row D- of the opcode chart (R88). -/
def chartRowD : List (Byte × Shape) := [
  (0xD0#8, .two .bne),
  (0xD1#8, .two .cmpIndy),
  (0xD5#8, .two .cmpZpx),
  (0xD6#8, .two .decZpx),
  (0xD8#8, .one .cld),
  (0xD9#8, .three .cmpAbsy),
  (0xDD#8, .three .cmpAbsx),
  (0xDE#8, .three .decAbsx)]

/-- Row E- of the opcode chart (R88). -/
def chartRowE : List (Byte × Shape) := [
  (0xE0#8, .two .cpxImm),
  (0xE1#8, .two .sbcIndx),
  (0xE4#8, .two .cpxZp),
  (0xE5#8, .two .sbcZp),
  (0xE6#8, .two .incZp),
  (0xE8#8, .one .inx),
  (0xE9#8, .two .sbcImm),
  (0xEA#8, .one .nop),
  (0xEC#8, .three .cpxAbs),
  (0xED#8, .three .sbcAbs),
  (0xEE#8, .three .incAbs)]

/-- Row F- of the opcode chart (R88). -/
def chartRowF : List (Byte × Shape) := [
  (0xF0#8, .two .beq),
  (0xF1#8, .two .sbcIndy),
  (0xF5#8, .two .sbcZpx),
  (0xF6#8, .two .incZpx),
  (0xF8#8, .one .sed),
  (0xF9#8, .three .sbcAbsy),
  (0xFD#8, .three .sbcAbsx),
  (0xFE#8, .three .incAbsx)]

/-- The row of the opcode chart with this number, the high digit of its opcodes (R88). -/
def chartRow : Nat → List (Byte × Shape)
  | 0 => chartRow0
  | 1 => chartRow1
  | 2 => chartRow2
  | 3 => chartRow3
  | 4 => chartRow4
  | 5 => chartRow5
  | 6 => chartRow6
  | 7 => chartRow7
  | 8 => chartRow8
  | 9 => chartRow9
  | 10 => chartRowA
  | 11 => chartRowB
  | 12 => chartRowC
  | 13 => chartRowD
  | 14 => chartRowE
  | 15 => chartRowF
  | _ => []

/-- What the chart holds for an opcode; `none` for the 105 blank cells (R89). -/
def shapeOf (opcode : Byte) : Option Shape :=
  ((chartRow (opcode.toNat / 16)).find? fun row => row.1 == opcode).map Prod.snd

/-- The five ROR opcodes, absent from chips made before August 1976 (R6). -/
def rorOpcodes : List Byte := [0x66#8, 0x6A#8, 0x6E#8, 0x76#8, 0x7E#8]

/-- The row of an opcode on a chip: without ROR its five opcodes join the illegal ones (R6, R89). -/
def shapeOnChip (hasRor : Bool) (opcode : Byte) : Option Shape :=
  if hasRor = false ∧ opcode ∈ rorOpcodes then none else shapeOf opcode

/-- The instruction at the head of `bytes`, with the bytes after it. The operand word's low byte comes first
(R55, R84). -/
def decode : List Byte → Except DecodeError (Instr × List Byte)
  | [] => .error .truncated
  | opcode :: rest =>
    match shapeOf opcode with
    | none => .error (.illegalOpcode opcode)
    | some (.one i) => .ok (i, rest)
    | some (.two f) =>
      match rest with
      | n :: rest => .ok (f n, rest)
      | [] => .error .truncated
    | some (.three f) =>
      match rest with
      | lo :: hi :: rest => .ok (f (Machine.word hi lo), rest)
      | _ => .error .truncated

/-- The opcode byte of an instruction (R88). -/
def Instr.opcode : Instr → Byte
  | .ldaImm _ => 0xA9#8
  | .ldaZp _ => 0xA5#8
  | .ldaZpx _ => 0xB5#8
  | .ldaAbs _ => 0xAD#8
  | .ldaAbsx _ => 0xBD#8
  | .ldaAbsy _ => 0xB9#8
  | .ldaIndx _ => 0xA1#8
  | .ldaIndy _ => 0xB1#8
  | .ldxImm _ => 0xA2#8
  | .ldxZp _ => 0xA6#8
  | .ldxZpy _ => 0xB6#8
  | .ldxAbs _ => 0xAE#8
  | .ldxAbsy _ => 0xBE#8
  | .ldyImm _ => 0xA0#8
  | .ldyZp _ => 0xA4#8
  | .ldyZpx _ => 0xB4#8
  | .ldyAbs _ => 0xAC#8
  | .ldyAbsx _ => 0xBC#8
  | .staZp _ => 0x85#8
  | .staZpx _ => 0x95#8
  | .staAbs _ => 0x8D#8
  | .staAbsx _ => 0x9D#8
  | .staAbsy _ => 0x99#8
  | .staIndx _ => 0x81#8
  | .staIndy _ => 0x91#8
  | .stxZp _ => 0x86#8
  | .stxZpy _ => 0x96#8
  | .stxAbs _ => 0x8E#8
  | .styZp _ => 0x84#8
  | .styZpx _ => 0x94#8
  | .styAbs _ => 0x8C#8
  | .tax => 0xAA#8
  | .tay => 0xA8#8
  | .txa => 0x8A#8
  | .tya => 0x98#8
  | .tsx => 0xBA#8
  | .txs => 0x9A#8
  | .pha => 0x48#8
  | .php => 0x08#8
  | .pla => 0x68#8
  | .plp => 0x28#8
  | .andImm _ => 0x29#8
  | .andZp _ => 0x25#8
  | .andZpx _ => 0x35#8
  | .andAbs _ => 0x2D#8
  | .andAbsx _ => 0x3D#8
  | .andAbsy _ => 0x39#8
  | .andIndx _ => 0x21#8
  | .andIndy _ => 0x31#8
  | .oraImm _ => 0x09#8
  | .oraZp _ => 0x05#8
  | .oraZpx _ => 0x15#8
  | .oraAbs _ => 0x0D#8
  | .oraAbsx _ => 0x1D#8
  | .oraAbsy _ => 0x19#8
  | .oraIndx _ => 0x01#8
  | .oraIndy _ => 0x11#8
  | .eorImm _ => 0x49#8
  | .eorZp _ => 0x45#8
  | .eorZpx _ => 0x55#8
  | .eorAbs _ => 0x4D#8
  | .eorAbsx _ => 0x5D#8
  | .eorAbsy _ => 0x59#8
  | .eorIndx _ => 0x41#8
  | .eorIndy _ => 0x51#8
  | .bitZp _ => 0x24#8
  | .bitAbs _ => 0x2C#8
  | .adcImm _ => 0x69#8
  | .adcZp _ => 0x65#8
  | .adcZpx _ => 0x75#8
  | .adcAbs _ => 0x6D#8
  | .adcAbsx _ => 0x7D#8
  | .adcAbsy _ => 0x79#8
  | .adcIndx _ => 0x61#8
  | .adcIndy _ => 0x71#8
  | .sbcImm _ => 0xE9#8
  | .sbcZp _ => 0xE5#8
  | .sbcZpx _ => 0xF5#8
  | .sbcAbs _ => 0xED#8
  | .sbcAbsx _ => 0xFD#8
  | .sbcAbsy _ => 0xF9#8
  | .sbcIndx _ => 0xE1#8
  | .sbcIndy _ => 0xF1#8
  | .cmpImm _ => 0xC9#8
  | .cmpZp _ => 0xC5#8
  | .cmpZpx _ => 0xD5#8
  | .cmpAbs _ => 0xCD#8
  | .cmpAbsx _ => 0xDD#8
  | .cmpAbsy _ => 0xD9#8
  | .cmpIndx _ => 0xC1#8
  | .cmpIndy _ => 0xD1#8
  | .cpxImm _ => 0xE0#8
  | .cpxZp _ => 0xE4#8
  | .cpxAbs _ => 0xEC#8
  | .cpyImm _ => 0xC0#8
  | .cpyZp _ => 0xC4#8
  | .cpyAbs _ => 0xCC#8
  | .incZp _ => 0xE6#8
  | .incZpx _ => 0xF6#8
  | .incAbs _ => 0xEE#8
  | .incAbsx _ => 0xFE#8
  | .inx => 0xE8#8
  | .iny => 0xC8#8
  | .decZp _ => 0xC6#8
  | .decZpx _ => 0xD6#8
  | .decAbs _ => 0xCE#8
  | .decAbsx _ => 0xDE#8
  | .dex => 0xCA#8
  | .dey => 0x88#8
  | .aslAcc => 0x0A#8
  | .aslZp _ => 0x06#8
  | .aslZpx _ => 0x16#8
  | .aslAbs _ => 0x0E#8
  | .aslAbsx _ => 0x1E#8
  | .lsrAcc => 0x4A#8
  | .lsrZp _ => 0x46#8
  | .lsrZpx _ => 0x56#8
  | .lsrAbs _ => 0x4E#8
  | .lsrAbsx _ => 0x5E#8
  | .rolAcc => 0x2A#8
  | .rolZp _ => 0x26#8
  | .rolZpx _ => 0x36#8
  | .rolAbs _ => 0x2E#8
  | .rolAbsx _ => 0x3E#8
  | .rorAcc => 0x6A#8
  | .rorZp _ => 0x66#8
  | .rorZpx _ => 0x76#8
  | .rorAbs _ => 0x6E#8
  | .rorAbsx _ => 0x7E#8
  | .bpl _ => 0x10#8
  | .bmi _ => 0x30#8
  | .bvc _ => 0x50#8
  | .bvs _ => 0x70#8
  | .bcc _ => 0x90#8
  | .bcs _ => 0xB0#8
  | .bne _ => 0xD0#8
  | .beq _ => 0xF0#8
  | .jmpAbs _ => 0x4C#8
  | .jmpInd _ => 0x6C#8
  | .jsr _ => 0x20#8
  | .rts => 0x60#8
  | .clc => 0x18#8
  | .sec => 0x38#8
  | .cli => 0x58#8
  | .sei => 0x78#8
  | .cld => 0xD8#8
  | .sed => 0xF8#8
  | .clv => 0xB8#8
  | .nop => 0xEA#8
  | .brk => 0x00#8
  | .rti => 0x40#8

/-- The two bytes of an operand word, low byte first (R55, R83). -/
def wordBytes (nn : Word) : List Byte := [Machine.lowByte nn, Machine.highByte nn]

/-- The operand bytes of a memory form (R83). -/
def AddrForm.bytes : AddrForm → List Byte
  | .zp n => [n]
  | .zpx n => [n]
  | .zpy n => [n]
  | .indx n => [n]
  | .indy n => [n]
  | .abs nn => wordBytes nn
  | .absx nn => wordBytes nn
  | .absy nn => wordBytes nn

/-- The operand bytes of a form (R83). -/
def Form.bytes : Form → List Byte
  | .imp => []
  | .acc => []
  | .imm n => [n]
  | .mem f => f.bytes
  | .rel n => [n]
  | .ind nn => wordBytes nn

/-- The bytes of an instruction, in ascending address order (R83). -/
def encode (i : Instr) : List Byte := i.opcode :: i.form.bytes

/-- The bytes of an instruction whose bits are the low `nbits` of `w`, the first byte least significant, as memory holds
them; the bits above are zero, up to the longest instruction's three bytes. -/
def tableBytes (nbits w : Nat) : List Byte :=
  [Machine.byteOfNat 0 (w % 2 ^ nbits), Machine.byteOfNat 1 (w % 2 ^ nbits), Machine.byteOfNat 2 (w % 2 ^ nbits)]

/-- What the decoder reads from an instruction whose bits are `w`, numbered as `spec/opcode_table.json` numbers them. -/
def decodeTableWord (nbits w : Nat) : Option Instr :=
  match decode (tableBytes nbits w) with
  | .ok (i, _) => some i
  | .error _ => none

end Sys2Proof
end

