-- ==== Sys2Proof/Machine/Fetch.lean ====
section
/-! DEFINITION. Fetching an instruction (R80, R84): the opcode byte at PC, then the operand bytes at the next addresses,
each an ordinary read. -/

namespace Sys2Proof.Machine

/-- The instruction at PC (R80, R84); an opcode that the chip does not have stops the model (R89, R6). PC does not move. -/
def fetch (s : State) : Access Instr :=
  bindNext (read s.pc s) fun (opcode, s) =>
  match shapeOnChip s.cfg.hasRor opcode with
  | none => .fault (.illegalOpcode opcode s.pc)
  | some (.one i) => .next (i, s)
  | some (.two f) => bindNext (read (s.pc + 1#16) s) fun (n, s) => .next (f n, s)
  | some (.three f) =>
    bindNext (read (s.pc + 1#16) s) fun (lo, s) =>
    bindNext (read (s.pc + 2#16) s) fun (hi, s) => .next (f (word hi lo), s)

/-- A boundary at which nothing is asserted anew and no interrupt is entered. -/
def State.quietBoundary (s : State) : Boundary where
  irq := false
  nmi := s.nmiPrev
  res := false
  take := false

/-- Stores bytes in the cells that consecutive addresses name, whatever answers there: a program's load from outside. -/
def State.loadBytes (s : State) (a : Word) : List Byte → State
  | [] => s
  | v :: vs => (s.storeCell a v).loadBytes (a + 1#16) vs

/-- The state with these bytes at PC and a quiet boundary first (log entry 3). -/
def State.loadAtPc (s : State) (bytes : List Byte) : State :=
  { s.loadBytes s.pc bytes with inputs := s.quietBoundary :: s.inputs }

end Sys2Proof.Machine
end

