-- ==== Sys2Proof/Machine/Step.lean ====
section
/-! DEFINITION. One step (R15, R225): the lines are sampled, and the machine resets, takes an interrupt, or runs the
instruction at PC. -/

namespace Sys2Proof.Machine

/-- The instruction at PC, fetched and run. -/
def runInstruction (s : State) : Host.Outcome State Fault Refusal :=
  bindNext (fetch s) fun (i, s) => exec i s

/-- One step of the machine (R225). -/
def step (s : State) : Host.Outcome State Fault Refusal :=
  match nextEvent s.boundary (sampleLines s) with
  | .reset => resetStep (sampleLines s)
  | .nmi => nmiEntry (sampleLines s)
  | .irq => irqEntry (sampleLines s)
  | .instruction => runInstruction (sampleLines s)

/-- The state with the instruction whose bits are `w` where the next step fetches, and a quiet boundary first, so that
the step fetches it (log entry 3). The cells at PC must be ones that reads reach. -/
def State.withFetchWord (s : State) (nbits w : Nat) : State := s.loadAtPc (tableBytes nbits w)

end Sys2Proof.Machine
end

