-- ==== Sys2Proof/Machine/Run.lean ====
section
/-! DEFINITION. A run under END_OF_RUN, the predicate on the state that whoever makes a claim must supply (R9, R264; the
spec's decision D19). -/

namespace Sys2Proof.Machine

/-- How far a run came. -/
inductive Run where
  /-- END_OF_RUN holds of the state: the run is over. -/
  | ended (s : State)
  /-- The steps allowed were made, and END_OF_RUN has held of no state. -/
  | running (s : State)
  /-- A step was a fault: "a finite one ending in a model fault" (R264). -/
  | fault (e : Fault)
  /-- A step was refused. -/
  | refused (r : Refusal)
  deriving DecidableEq, Repr

/-- The run from a state under `endOfRun`, for at most so many steps (R264). -/
def run (endOfRun : State → Bool) : Nat → State → Run
  | 0, s => if endOfRun s then .ended s else .running s
  | k + 1, s =>
    if endOfRun s then .ended s
    else
      match step s with
      | .next t => run endOfRun k t
      | .fault e => .fault e
      | .refused r => .refused r

/-- An END_OF_RUN that R264 suggests: PC reaches an address. -/
def State.atAddress (a : Word) (s : State) : Bool := s.pc == a

/-- An END_OF_RUN that R264 suggests: the next instruction is a `JMP` to itself. -/
def State.atSelfJump (s : State) : Bool :=
  s.byteAt s.pc == 0x4C#8 && word (s.byteAt (s.pc + 2#16)) (s.byteAt (s.pc + 1#16)) == s.pc

/-- An END_OF_RUN that R264 suggests: BRK is about to execute. -/
def State.atBrk (s : State) : Bool := s.byteAt s.pc == 0x00#8

end Sys2Proof.Machine
end

