-- ==== Sys2Proof/Safety.lean ====
section
/-! DEFINITION. What counts as a safe run, and the vocabulary claims use: what an address is, what a store leaves, which
operand forms each mnemonic has (R88), what each mnemonic may write (R21, R22, R39), and the machine's invariant. -/

namespace Sys2Proof

/-! ### Safe runs -/

/-- No parameter of the machine asks the model to stop: every access is answered and every pointer read (R9, R54, R62,
R101). -/
abbrev Config.NeverStops (c : Config) : Prop :=
  c.hasRor = true ∧ c.ptrPageCross = .wrap ∧ c.extraBus = .premise ∧ c.platform.onNoneRead = .draw ∧
    c.platform.onRomWrite = .ignore

namespace Machine

/-- The step is safe: it gives a next state. -/
def Safe (s : State) : Prop := ∃ t, step s = .next t

/-- The run under this END_OF_RUN (R264) is safe: it ends, or so many steps in a row are safe. -/
def SafeFor (endOfRun : State → Bool) (k : Nat) (s : State) : Prop :=
  ∃ t, run endOfRun k s = .ended t ∨ run endOfRun k s = .running t

/-- So many steps in a row lead from `s` to `t`. -/
def Steps : Nat → State → State → Prop
  | 0, s, t => s = t
  | k + 1, s, t => ∃ u, step s = .next u ∧ Steps k u t

/-! ### Addresses and stores -/

/-- The address names a cell of RAM. -/
abbrev State.IsRam (s : State) (a : Word) : Prop := s.kindAt a = .ram

/-- The address names a cell of RAM or ROM: a read of it gives its byte and does nothing else (R54, R63). -/
abbrev State.IsMemory (s : State) (a : Word) : Prop := s.kindAt a = .ram ∨ s.kindAt a = .rom

/-- Some address in the page of `ea`, or in the page before it modulo 65536, is a device cell with side effects (R62). -/
def State.NearDevice (s : State) (ea : Word) : Prop :=
  ∃ a : Word, s.kindAt a = .device true ∧
    (a.toNat / 256 = ea.toNat / 256 ∨ a.toNat / 256 = (ea.toNat / 256 + 255) % 256)

/-- The two addresses name one cell, of a kind that a write reaches (log entry 10). -/
abbrev State.PushHits (s : State) (a b : Word) : Prop :=
  s.cell a = s.cell b ∧ s.kindAt b ≠ .rom ∧ s.kindAt b ≠ .unpopulated

/-- The JSR at PC has an operand byte in one of the two stack cells it writes (R191, U13). -/
abbrev State.JsrOverwritesOperand (s : State) : Prop :=
  s.PushHits (s.pc + 1#16) (BitVec.ofNat 16 (0x0100 + s.sp.toNat)) ∨
    s.PushHits (s.pc + 1#16) (BitVec.ofNat 16 (0x0100 + (s.sp - 1#8).toNat)) ∨
    s.PushHits (s.pc + 2#16) (BitVec.ofNat 16 (0x0100 + s.sp.toNat)) ∨
    s.PushHits (s.pc + 2#16) (BitVec.ofNat 16 (0x0100 + (s.sp - 1#8).toNat))

/-- A store to this address does not stop the model (R54). -/
abbrev State.MayStore (s : State) (a : Word) : Prop := ¬ (s.kindAt a = .rom ∧ s.cfg.platform.onRomWrite = .fault)

/-- The state `t` differs from `s` in no cell but the one that `a` names, and there only as a store of `v` to it says:
RAM holds `v`, anything else keeps its contents (R54). `h` is the event history just before the store. -/
structure StoredOnly (s : State) (a : Word) (v : Byte) (h : List DeviceEvent) (t : State) : Prop where
  elsewhere : ∀ b, s.cell b ≠ s.cell a → t.byteAt b = s.byteAt b
  inRam : s.IsRam a → t.byteAt a = v
  notRam : ¬ s.IsRam a → t.mem = s.mem
  onDevice : ∀ e, s.kindAt a = .device e → t.events = .write (s.cell a) v :: h
  noDevice : (∀ e, s.kindAt a ≠ .device e) → t.events = h

/-- The byte that a push of P stores, bit by bit: N V 1 B D I Z C (R33; bits 5 and 4 are the spec's decision D8). -/
def Flags.pushedByte (p : Flags) (b : Bool) : Byte :=
  BitVec.ofNat 8 (p.n.toNat * 128 + p.v.toNat * 64 + 32 + b.toNat * 16 + p.d.toNat * 8 + p.i.toNat * 4 + p.z.toNat * 2 +
    p.c.toNat)

/-- The state after an exception was taken with its three pushes in RAM (R208, R226): the return address `ret`, high
byte first, then P with `b` as its B bit; I is 1, and PC comes from the vector. -/
def State.entered (s : State) (ret : Word) (b : Bool) (vector : Word) : State :=
  let pushed := ((s.storeCell (stackAddr s.sp) (highByte ret)).storeCell (stackAddr (s.sp - 1#8)) (lowByte ret)).storeCell
    (stackAddr (s.sp - 2#8)) (s.p.pushedByte b)
  { pushed with
    sp := s.sp - 3#8
    p := { s.p with i := true }
    pc := word (pushed.byteAt (vector + 1#16)) (pushed.byteAt vector)
    iPoll := true }

/-- The three cells that an exception pushes to are RAM. -/
abbrev State.StackRam (s : State) : Prop :=
  s.IsRam (stackAddr s.sp) ∧ s.IsRam (stackAddr (s.sp - 1#8)) ∧ s.IsRam (stackAddr (s.sp - 2#8))

/-- The three cells that an exception pushes to are three different ones. -/
abbrev State.StackDistinct (s : State) : Prop :=
  s.cell (stackAddr s.sp) ≠ s.cell (stackAddr (s.sp - 1#8)) ∧
    s.cell (stackAddr s.sp) ≠ s.cell (stackAddr (s.sp - 2#8)) ∧
    s.cell (stackAddr (s.sp - 1#8)) ≠ s.cell (stackAddr (s.sp - 2#8))

/-- The state with the lines of this boundary sampled (R221), written out. -/
def State.sampled (s : State) : State :=
  { s with
    inputs := s.inputs.tail
    time := s.time + 1
    nmiPending := s.nmiPending || (s.boundary.nmi && !s.nmiPrev)
    nmiPrev := s.boundary.nmi }

/-! ### The machine's invariant -/

/-- Memory is in its canonical form, `alias` is idempotent, and every event of the history is at a device cell (R54). -/
def State.Inv (s : State) : Prop :=
  Memory.wf s.mem ∧ s.cfg.platform.AliasIdempotent ∧ ∀ e ∈ s.events, ∃ b, s.cfg.platform.kindOf e.cell = .device b

end Machine

/-! ### What each mnemonic may write -/

/-- The flags that the table of R39 marks as written, by a letter or a constant. -/
def Mnemonic.flagsWritten : Mnemonic → Machine.Flags
  | .lda => ⟨true, false, false, false, true, false⟩
  | .ldx => ⟨true, false, false, false, true, false⟩
  | .ldy => ⟨true, false, false, false, true, false⟩
  | .sta => ⟨false, false, false, false, false, false⟩
  | .stx => ⟨false, false, false, false, false, false⟩
  | .sty => ⟨false, false, false, false, false, false⟩
  | .tax => ⟨true, false, false, false, true, false⟩
  | .tay => ⟨true, false, false, false, true, false⟩
  | .txa => ⟨true, false, false, false, true, false⟩
  | .tya => ⟨true, false, false, false, true, false⟩
  | .tsx => ⟨true, false, false, false, true, false⟩
  | .txs => ⟨false, false, false, false, false, false⟩
  | .pha => ⟨false, false, false, false, false, false⟩
  | .php => ⟨false, false, false, false, false, false⟩
  | .pla => ⟨true, false, false, false, true, false⟩
  | .plp => ⟨true, true, true, true, true, true⟩
  | .and => ⟨true, false, false, false, true, false⟩
  | .ora => ⟨true, false, false, false, true, false⟩
  | .eor => ⟨true, false, false, false, true, false⟩
  | .bit => ⟨true, true, false, false, true, false⟩
  | .adc => ⟨true, true, false, false, true, true⟩
  | .sbc => ⟨true, true, false, false, true, true⟩
  | .cmp => ⟨true, false, false, false, true, true⟩
  | .cpx => ⟨true, false, false, false, true, true⟩
  | .cpy => ⟨true, false, false, false, true, true⟩
  | .inc => ⟨true, false, false, false, true, false⟩
  | .inx => ⟨true, false, false, false, true, false⟩
  | .iny => ⟨true, false, false, false, true, false⟩
  | .dec => ⟨true, false, false, false, true, false⟩
  | .dex => ⟨true, false, false, false, true, false⟩
  | .dey => ⟨true, false, false, false, true, false⟩
  | .asl => ⟨true, false, false, false, true, true⟩
  | .lsr => ⟨true, false, false, false, true, true⟩
  | .rol => ⟨true, false, false, false, true, true⟩
  | .ror => ⟨true, false, false, false, true, true⟩
  | .bpl => ⟨false, false, false, false, false, false⟩
  | .bmi => ⟨false, false, false, false, false, false⟩
  | .bvc => ⟨false, false, false, false, false, false⟩
  | .bvs => ⟨false, false, false, false, false, false⟩
  | .bcc => ⟨false, false, false, false, false, false⟩
  | .bcs => ⟨false, false, false, false, false, false⟩
  | .bne => ⟨false, false, false, false, false, false⟩
  | .beq => ⟨false, false, false, false, false, false⟩
  | .jmp => ⟨false, false, false, false, false, false⟩
  | .jsr => ⟨false, false, false, false, false, false⟩
  | .rts => ⟨false, false, false, false, false, false⟩
  | .clc => ⟨false, false, false, false, false, true⟩
  | .sec => ⟨false, false, false, false, false, true⟩
  | .cli => ⟨false, false, false, true, false, false⟩
  | .sei => ⟨false, false, false, true, false, false⟩
  | .cld => ⟨false, false, true, false, false, false⟩
  | .sed => ⟨false, false, true, false, false, false⟩
  | .clv => ⟨false, true, false, false, false, false⟩
  | .nop => ⟨false, false, false, false, false, false⟩
  | .brk => ⟨false, false, false, true, false, false⟩
  | .rti => ⟨true, true, true, true, true, true⟩

/-- The instruction writes A (R21). -/
def Instr.writesA (i : Instr) : Bool :=
  i.mnemonic ∈ [.lda, .pla, .txa, .tya, .and, .ora, .eor, .adc, .sbc] ||
    (i.form == .acc && i.mnemonic ∈ [.asl, .lsr, .rol, .ror])

/-- The instruction writes X (R22). -/
def Instr.writesX (i : Instr) : Bool := i.mnemonic ∈ [.ldx, .tax, .tsx, .inx, .dex]

/-- The instruction writes Y (R22). -/
def Instr.writesY (i : Instr) : Bool := i.mnemonic ∈ [.ldy, .tay, .iny, .dey]

/-- The instruction writes S: TXS (R125) and the pushes and pulls (R126 to R129, R191, R192, R208, R209). -/
def Instr.writesS (i : Instr) : Bool :=
  i.mnemonic ∈ [.txs, .pha, .php, .pla, .plp, .jsr, .rts, .brk, .rti]

/-- The instruction assigns PC (R24); a branch does so when it is taken. -/
def Instr.assignsPc (i : Instr) : Bool :=
  i.mnemonic ∈ [.jmp, .jsr, .rts, .rti, .brk, .bpl, .bmi, .bvc, .bvs, .bcc, .bcs, .bne, .beq]

/-- The instruction writes memory: a store, a read-modify-write, or a push. -/
def Instr.writesMemory (i : Instr) : Bool :=
  i.mnemonic ∈ [.sta, .stx, .sty, .inc, .dec, .pha, .php, .jsr, .brk] ||
    (i.form != .acc && i.mnemonic ∈ [.asl, .lsr, .rol, .ror])

/-- CLI, SEI and PLP, after which I lags by one instruction (R230). -/
def Instr.lagsI (i : Instr) : Bool := i.mnemonic ∈ [.cli, .sei, .plp]

/-- The 105 opcodes that are blank cells of the chart, as R89 lists them. -/
def illegalOpcodes : List Byte := [
  0x02#8, 0x03#8, 0x04#8, 0x07#8, 0x0B#8, 0x0C#8, 0x0F#8,
  0x12#8, 0x13#8, 0x14#8, 0x17#8, 0x1A#8, 0x1B#8, 0x1C#8, 0x1F#8,
  0x22#8, 0x23#8, 0x27#8, 0x2B#8, 0x2F#8,
  0x32#8, 0x33#8, 0x34#8, 0x37#8, 0x3A#8, 0x3B#8, 0x3C#8, 0x3F#8,
  0x42#8, 0x43#8, 0x44#8, 0x47#8, 0x4B#8, 0x4F#8,
  0x52#8, 0x53#8, 0x54#8, 0x57#8, 0x5A#8, 0x5B#8, 0x5C#8, 0x5F#8,
  0x62#8, 0x63#8, 0x64#8, 0x67#8, 0x6B#8, 0x6F#8,
  0x72#8, 0x73#8, 0x74#8, 0x77#8, 0x7A#8, 0x7B#8, 0x7C#8, 0x7F#8,
  0x80#8, 0x82#8, 0x83#8, 0x87#8, 0x89#8, 0x8B#8, 0x8F#8,
  0x92#8, 0x93#8, 0x97#8, 0x9B#8, 0x9C#8, 0x9E#8, 0x9F#8,
  0xA3#8, 0xA7#8, 0xAB#8, 0xAF#8,
  0xB2#8, 0xB3#8, 0xB7#8, 0xBB#8, 0xBF#8,
  0xC2#8, 0xC3#8, 0xC7#8, 0xCB#8, 0xCF#8,
  0xD2#8, 0xD3#8, 0xD4#8, 0xD7#8, 0xDA#8, 0xDB#8, 0xDC#8, 0xDF#8,
  0xE2#8, 0xE3#8, 0xE7#8, 0xEB#8, 0xEF#8,
  0xF2#8, 0xF3#8, 0xF4#8, 0xF7#8, 0xFA#8, 0xFB#8, 0xFC#8, 0xFF#8]

/-! ### The operand forms of each mnemonic (R88, R105)

Each table lists every form, at every operand: `n` a one-byte and `nn` a two-byte quantity. -/

namespace Forms

open Machine

/-- The forms of LDA (R110). -/
def lda (n : Byte) (nn : Word) : List (Instr × Operand) := [
  (.ldaImm n, .imm n),
  (.ldaZp n, .mem (.zp n)),
  (.ldaZpx n, .mem (.zpx n)),
  (.ldaAbs nn, .mem (.abs nn)),
  (.ldaAbsx nn, .mem (.absx nn)),
  (.ldaAbsy nn, .mem (.absy nn)),
  (.ldaIndx n, .mem (.indx n)),
  (.ldaIndy n, .mem (.indy n))]

/-- The forms of LDX (R111). -/
def ldx (n : Byte) (nn : Word) : List (Instr × Operand) := [
  (.ldxImm n, .imm n),
  (.ldxZp n, .mem (.zp n)),
  (.ldxZpy n, .mem (.zpy n)),
  (.ldxAbs nn, .mem (.abs nn)),
  (.ldxAbsy nn, .mem (.absy nn))]

/-- The forms of LDY (R112). -/
def ldy (n : Byte) (nn : Word) : List (Instr × Operand) := [
  (.ldyImm n, .imm n),
  (.ldyZp n, .mem (.zp n)),
  (.ldyZpx n, .mem (.zpx n)),
  (.ldyAbs nn, .mem (.abs nn)),
  (.ldyAbsx nn, .mem (.absx nn))]

/-- The forms of AND (R135). -/
def and (n : Byte) (nn : Word) : List (Instr × Operand) := [
  (.andImm n, .imm n),
  (.andZp n, .mem (.zp n)),
  (.andZpx n, .mem (.zpx n)),
  (.andAbs nn, .mem (.abs nn)),
  (.andAbsx nn, .mem (.absx nn)),
  (.andAbsy nn, .mem (.absy nn)),
  (.andIndx n, .mem (.indx n)),
  (.andIndy n, .mem (.indy n))]

/-- The forms of ORA (R136). -/
def ora (n : Byte) (nn : Word) : List (Instr × Operand) := [
  (.oraImm n, .imm n),
  (.oraZp n, .mem (.zp n)),
  (.oraZpx n, .mem (.zpx n)),
  (.oraAbs nn, .mem (.abs nn)),
  (.oraAbsx nn, .mem (.absx nn)),
  (.oraAbsy nn, .mem (.absy nn)),
  (.oraIndx n, .mem (.indx n)),
  (.oraIndy n, .mem (.indy n))]

/-- The forms of EOR (R137). -/
def eor (n : Byte) (nn : Word) : List (Instr × Operand) := [
  (.eorImm n, .imm n),
  (.eorZp n, .mem (.zp n)),
  (.eorZpx n, .mem (.zpx n)),
  (.eorAbs nn, .mem (.abs nn)),
  (.eorAbsx nn, .mem (.absx nn)),
  (.eorAbsy nn, .mem (.absy nn)),
  (.eorIndx n, .mem (.indx n)),
  (.eorIndy n, .mem (.indy n))]

/-- The forms of BIT (R138). -/
def bit (n : Byte) (nn : Word) : List (Instr × Operand) := [
  (.bitZp n, .mem (.zp n)),
  (.bitAbs nn, .mem (.abs nn))]

/-- The forms of ADC (R146). -/
def adc (n : Byte) (nn : Word) : List (Instr × Operand) := [
  (.adcImm n, .imm n),
  (.adcZp n, .mem (.zp n)),
  (.adcZpx n, .mem (.zpx n)),
  (.adcAbs nn, .mem (.abs nn)),
  (.adcAbsx nn, .mem (.absx nn)),
  (.adcAbsy nn, .mem (.absy nn)),
  (.adcIndx n, .mem (.indx n)),
  (.adcIndy n, .mem (.indy n))]

/-- The forms of SBC (R148). -/
def sbc (n : Byte) (nn : Word) : List (Instr × Operand) := [
  (.sbcImm n, .imm n),
  (.sbcZp n, .mem (.zp n)),
  (.sbcZpx n, .mem (.zpx n)),
  (.sbcAbs nn, .mem (.abs nn)),
  (.sbcAbsx nn, .mem (.absx nn)),
  (.sbcAbsy nn, .mem (.absy nn)),
  (.sbcIndx n, .mem (.indx n)),
  (.sbcIndy n, .mem (.indy n))]

/-- The forms of CMP (R153). -/
def cmp (n : Byte) (nn : Word) : List (Instr × Operand) := [
  (.cmpImm n, .imm n),
  (.cmpZp n, .mem (.zp n)),
  (.cmpZpx n, .mem (.zpx n)),
  (.cmpAbs nn, .mem (.abs nn)),
  (.cmpAbsx nn, .mem (.absx nn)),
  (.cmpAbsy nn, .mem (.absy nn)),
  (.cmpIndx n, .mem (.indx n)),
  (.cmpIndy n, .mem (.indy n))]

/-- The forms of CPX (R154). -/
def cpx (n : Byte) (nn : Word) : List (Instr × Operand) := [
  (.cpxImm n, .imm n),
  (.cpxZp n, .mem (.zp n)),
  (.cpxAbs nn, .mem (.abs nn))]

/-- The forms of CPY (R155). -/
def cpy (n : Byte) (nn : Word) : List (Instr × Operand) := [
  (.cpyImm n, .imm n),
  (.cpyZp n, .mem (.zp n)),
  (.cpyAbs nn, .mem (.abs nn))]

/-- The forms of STA (R113). -/
def sta (n : Byte) (nn : Word) : List (Instr × AddrForm) := [
  (.staZp n, (.zp n)),
  (.staZpx n, (.zpx n)),
  (.staAbs nn, (.abs nn)),
  (.staAbsx nn, (.absx nn)),
  (.staAbsy nn, (.absy nn)),
  (.staIndx n, (.indx n)),
  (.staIndy n, (.indy n))]

/-- The forms of STX (R114). -/
def stx (n : Byte) (nn : Word) : List (Instr × AddrForm) := [
  (.stxZp n, (.zp n)),
  (.stxZpy n, (.zpy n)),
  (.stxAbs nn, (.abs nn))]

/-- The forms of STY (R115). -/
def sty (n : Byte) (nn : Word) : List (Instr × AddrForm) := [
  (.styZp n, (.zp n)),
  (.styZpx n, (.zpx n)),
  (.styAbs nn, (.abs nn))]

/-- The forms of INC with a memory operand (R160). -/
def inc (n : Byte) (nn : Word) : List (Instr × AddrForm) := [
  (.incZp n, (.zp n)),
  (.incZpx n, (.zpx n)),
  (.incAbs nn, (.abs nn)),
  (.incAbsx nn, (.absx nn))]

/-- The forms of DEC with a memory operand (R163). -/
def dec (n : Byte) (nn : Word) : List (Instr × AddrForm) := [
  (.decZp n, (.zp n)),
  (.decZpx n, (.zpx n)),
  (.decAbs nn, (.abs nn)),
  (.decAbsx nn, (.absx nn))]

/-- The forms of ASL with a memory operand (R170). -/
def asl (n : Byte) (nn : Word) : List (Instr × AddrForm) := [
  (.aslZp n, (.zp n)),
  (.aslZpx n, (.zpx n)),
  (.aslAbs nn, (.abs nn)),
  (.aslAbsx nn, (.absx nn))]

/-- The forms of LSR with a memory operand (R171). -/
def lsr (n : Byte) (nn : Word) : List (Instr × AddrForm) := [
  (.lsrZp n, (.zp n)),
  (.lsrZpx n, (.zpx n)),
  (.lsrAbs nn, (.abs nn)),
  (.lsrAbsx nn, (.absx nn))]

/-- The forms of ROL with a memory operand (R172). -/
def rol (n : Byte) (nn : Word) : List (Instr × AddrForm) := [
  (.rolZp n, (.zp n)),
  (.rolZpx n, (.zpx n)),
  (.rolAbs nn, (.abs nn)),
  (.rolAbsx nn, (.absx nn))]

/-- The forms of ROR with a memory operand (R173). -/
def ror (n : Byte) (nn : Word) : List (Instr × AddrForm) := [
  (.rorZp n, (.zp n)),
  (.rorZpx n, (.zpx n)),
  (.rorAbs nn, (.abs nn)),
  (.rorAbsx nn, (.absx nn))]

/-- Every form of every instruction that reads its operand and writes no memory. -/
def reads (n : Byte) (nn : Word) : List (Instr × Operand) :=
  lda n nn ++ ldx n nn ++ ldy n nn ++ and n nn ++ ora n nn ++ eor n nn ++ bit n nn ++ adc n nn ++ sbc n nn ++ cmp n nn ++
    cpx n nn ++ cpy n nn

/-- Every form of every store. -/
def stores (n : Byte) (nn : Word) : List (Instr × AddrForm) := sta n nn ++ stx n nn ++ sty n nn

/-- Every memory form of every read-modify-write instruction (R166). -/
def modifies (n : Byte) (nn : Word) : List (Instr × AddrForm) :=
  inc n nn ++ dec n nn ++ asl n nn ++ lsr n nn ++ rol n nn ++ ror n nn

end Forms

namespace Machine

/-! ### The shapes of statements about families of instructions -/

/-- Every form of the table behaves so, where `guard` holds of the state and the operand value: the instruction completes
in `effect s m`, past the instruction, with what reading the operand left in the event history and the draws; and where
reading the operand stops with a fault, so does the instruction. -/
def ReadForms (forms : Byte → Word → List (Instr × Operand)) (guard : State → Byte → Prop) (effect : State → Byte → State) :
    Prop :=
  ∀ (n : Byte) (nn : Word) (i : Instr) (o : Operand), (i, o) ∈ forms n nn → ∀ s : State,
    (∀ (m : Byte) (s1 : State), o.value s = .next (m, s1) → guard s m →
      exec i s = .next { effect s m with
        pc := s.pc + BitVec.ofNat 16 o.length
        iPoll := s.p.i
        events := s1.events
        draws := s1.draws }) ∧
    (∀ e, o.value s = .fault e → exec i s = .fault e)

/-- Every form of the table stores the byte `v s` at its effective address and does nothing else but move past the
instruction; it stops where the address is not reached for a fault, or where the platform asks for a fault on ROM. -/
def StoreForms (forms : Byte → Word → List (Instr × AddrForm)) (v : State → Byte) : Prop :=
  ∀ (n : Byte) (nn : Word) (i : Instr) (f : AddrForm), (i, f) ∈ forms n nn → ∀ s : State,
    (∀ (ea : Word) (s1 : State), effectiveAddr f s = .next (ea, s1) →
      (s.MayStore ea → ∃ t, exec i s = .next t ∧ StoredOnly s ea (v s) s1.events t ∧
        t = { s with
          mem := t.mem
          events := t.events
          draws := s1.draws
          pc := s.pc + BitVec.ofNat 16 f.length
          iPoll := s.p.i }) ∧
      (¬ s.MayStore ea → exec i s = .fault (.writeToRom ea))) ∧
    (∀ e, effectiveAddr f s = .fault e → exec i s = .fault e)

/-- Every form of the table reads the byte `m` at its effective address, stores the result `(op m p).1` there, leaves the
flags `(op m p).2`, and does nothing else but move past the instruction, where `guard` holds of the state; it stops where
the platform asks for a fault on ROM, or on a read where nothing answers. -/
def ModifyForms (forms : Byte → Word → List (Instr × AddrForm)) (guard : State → Prop) (op : Byte → Flags → Byte × Flags) :
    Prop :=
  ∀ (n : Byte) (nn : Word) (i : Instr) (f : AddrForm), (i, f) ∈ forms n nn → ∀ (s s1 : State) (ea : Word),
    guard s → effectiveAddr f s = .next (ea, s1) → s.extraClash ea = false →
    (∀ (m : Byte) (s2 : State), read ea s1 = .next (m, s2) →
      (s.MayStore ea → ∃ t, exec i s = .next t ∧ StoredOnly s ea (op m s.p).1 s2.events t ∧
        t = { s with
          mem := t.mem
          events := t.events
          draws := s2.draws
          p := (op m s.p).2
          pc := s.pc + BitVec.ofNat 16 f.length
          iPoll := s.p.i }) ∧
      (¬ s.MayStore ea → exec i s = .fault (.writeToRom ea))) ∧
    (∀ e, read ea s1 = .fault e → exec i s = .fault e)

end Machine

end Sys2Proof
end

