-- ==== Sys2Proof/Certificates/Slice0/Obligations.lean ====
section
/-! DEFINITION. The statements for the provers. Where a docstring says that the spec marks a sentence as general knowledge
or as a decision, the sentence is the spec's and not the card's (00_scope.md section 1). -/

open Sys2Proof Sys2Proof.Machine

/-- Decode and encode agree in both directions, for every instruction and every operand (R80 to R84). The opcode values
are those of R88, part of which the spec takes from the standard assignment (92_eei_decisions.md D1). -/
def Obligations.DecodeIffEncoded : Prop :=
  ∀ (bytes rest : List Byte) (i : Instr), decode bytes = .ok (i, rest) ↔ bytes = encode i ++ rest

/-- R89's list and its treatment, which is the spec's decision D2. -/
def Obligations.IllegalOpcodesStopTheModel : Prop :=
  (∀ op : Byte, (∃ i : Instr, i.opcode = op) ↔ op ∉ illegalOpcodes) ∧
  ∀ s : State, nextEvent s.boundary s.sampled = .instruction → s.IsMemory s.pc → s.byteAt s.pc ∈ illegalOpcodes →
    step s = .fault (.illegalOpcode (s.byteAt s.pc) s.pc)

/-- Words from the card's example and from the spec's examples; a sanity check. -/
def Obligations.SpecWordsDecode : Prop :=
  decodeTableWord 24 0x12344C = some (.jmpAbs 0x1234#16) ∧
  decodeTableWord 24 0x02008D = some (.staAbs 0x0200#16) ∧
  decodeTableWord 8 0x48 = some .pha ∧
  decodeTableWord 16 0xFF49 = some (.eorImm 0xFF#8) ∧
  decodeTableWord 16 0x1071 = some (.adcIndy 0x10#8) ∧
  decodeTableWord 24 0x02FFFE = some (.incAbsx 0x02FF#16) ∧
  decodeTableWord 16 0x1036 = some (.rolZpx 0x10#8) ∧
  decodeTableWord 16 0xFED0 = some (.bne 0xFE#8) ∧
  decodeTableWord 8 0x00 = some .brk ∧
  decodeTableWord 16 0x0089 = none

/-- R80 ("The opcode byte alone selects the mnemonic and the operand form") and R82. -/
def Obligations.FirstByteFixesLengthAndMnemonic : Prop :=
  ∀ (op : Byte) (r1 r2 rest1 rest2 : List Byte) (i j : Instr),
    decode (op :: r1) = .ok (i, rest1) → decode (op :: r2) = .ok (j, rest2) →
    i.mnemonic = j.mnemonic ∧ i.length = j.length ∧ rest1 = (op :: r1).drop i.length ∧ rest2 = (op :: r2).drop i.length

/-- R15 and R225: the step is exec of the decoded instruction, at the state whose lines were sampled. `State.sampled`
writes that state out. -/
def Obligations.StepRunsDecodedInstruction : Prop :=
  ∀ (s : State) (i : Instr) (rest : List Byte),
    nextEvent s.boundary s.sampled = .instruction →
    (∀ k, k < i.length → s.IsMemory (s.pc + BitVec.ofNat 16 k)) →
    decode [s.byteAt s.pc, s.byteAt (s.pc + 1#16), s.byteAt (s.pc + 2#16)] = .ok (i, rest) →
    step s = exec i s.sampled

/-- Over instructions, interrupt entries and resets alike. The canonical form is the model's (log entry 2); that alias
is idempotent, and that only device accesses are recorded, is R54. -/
def Obligations.EveryStepKeepsInvariant : Prop :=
  ∀ s t : State, s.Inv → step s = .next t → t.Inv

/-- The values that R46 and R250 give; the values of A, X, Y, S, N, V, D, Z, C (log entry 1) and of nmi_prev (log entry
23) are the model's choice and are not stated. -/
def Obligations.ResetStateAsSpecified : Prop :=
  State.reset.Inv ∧ State.reset.p.i = true ∧ State.reset.iPoll = true ∧ State.reset.nmiPending = false ∧
  State.reset.pc = word (State.reset.byteAt 0xFFFD#16) (State.reset.byteAt 0xFFFC#16) ∧ State.reset.events = []

/-- R45: the platform and the other parameters are no state that a step changes. How State carries the inputs is the
model's choice (log entry 6), and that draws are counted is too (log entry 7). -/
def Obligations.StepOnlyConsumesEnvironment : Prop :=
  ∀ s t : State, step s = .next t →
    t.cfg = s.cfg ∧ t.inputs = s.inputs.tail ∧ t.environment = s.environment ∧ t.time = s.time + 1 ∧
    t.nmiPrev = s.boundary.nmi ∧ s.draws ≤ t.draws ∧ s.events <:+ t.events

/-- R217: "Nothing else traps". The hypothesis is on the parameters, and for JSR on the operand cells (U13), alone. -/
def Obligations.EveryInstructionCompletes : Prop :=
  ∀ (i : Instr) (s : State), s.cfg.NeverStops → (i.mnemonic = .jsr → ¬ s.JsrOverwritesOperand) →
    ∃ t, exec i s = .next t ∧ t.cfg = s.cfg ∧ t.inputs = s.inputs ∧ t.nmiPending = s.nmiPending ∧ t.nmiPrev = s.nmiPrev ∧
      (i.assignsPc = false → t.pc = s.pc + BitVec.ofNat 16 i.length)

/-- R217 over whole steps: instructions, interrupt entries and resets. Which JSR overlap is refused is log entry 10
(DEDUCED). -/
def Obligations.OnlyIllegalOpcodesStopTheMachine : Prop :=
  ∀ s : State, s.cfg.NeverStops →
    Safe s ∨
    (nextEvent s.boundary s.sampled = .instruction ∧
      ((∃ op u, read s.pc s.sampled = .next (op, u) ∧ op ∈ illegalOpcodes ∧ step s = .fault (.illegalOpcode op s.pc)) ∨
       (∃ nn u, fetch s.sampled = .next (.jsr nn, u) ∧ u.JsrOverwritesOperand ∧
          step s = .refused (.jsrOverwritesOperand s.pc))))

/-- R14's faults, each under the parameter that asks for it, and the two refusals of U12 and U13. -/
def Obligations.EveryStopHasItsCause : Prop :=
  ∀ (i : Instr) (s : State),
    (∀ e, exec i s = .fault e →
      (e = .illegalOpcode i.opcode s.pc ∧ i.mnemonic = .ror ∧ s.cfg.hasRor = false) ∨
      (∃ a, e = .pointerPageCross a ∧ lowByte a = 0xFF#8 ∧ s.cfg.ptrPageCross = .fault) ∨
      (∃ a, e = .unpopulatedAccess a ∧ s.kindAt a = .unpopulated ∧ s.cfg.platform.onNoneRead = .fault) ∨
      (∃ a, e = .writeToRom a ∧ s.kindAt a = .rom ∧ s.cfg.platform.onRomWrite = .fault)) ∧
    (∀ r, exec i s = .refused r →
      (∃ a, r = .deviceExtraAccess a ∧ s.cfg.extraBus = .refuse ∧ s.NearDevice a) ∨
      (r = .jsrOverwritesOperand s.pc ∧ i.mnemonic = .jsr ∧ s.JsrOverwritesOperand))

/-- R24; the wrap is R25's decision D4. -/
def Obligations.PcAdvancesByLength : Prop :=
  ∀ (i : Instr) (s t : State), exec i s = .next t → i.assignsPc = false →
    t.pc = BitVec.ofNat 16 (s.pc.toNat + i.length)

/-- The operation is the spec's own sentence of the rule, which the spec marks as general knowledge. The flag rows are
the card's. -/
def Obligations.LoadsCopyTheirOperand : Prop :=
  ReadForms Forms.lda (fun _ _ => True) (fun s m => { s with a := m, p := { s.p with n := m.getLsbD 7, z := m == 0#8 } }) ∧
  ReadForms Forms.ldx (fun _ _ => True) (fun s m => { s with x := m, p := { s.p with n := m.getLsbD 7, z := m == 0#8 } }) ∧
  ReadForms Forms.ldy (fun _ _ => True) (fun s m => { s with y := m, p := { s.p with n := m.getLsbD 7, z := m == 0#8 } })

/-- The operation is the spec's own sentence of the rule, which the spec marks as general knowledge. The address that
the fault writeToRom carries is log entry 16 (the model's DESIGN CHOICE). -/
def Obligations.StoresWriteOnlyTheirCell : Prop :=
  StoreForms Forms.sta (fun s => s.a) ∧ StoreForms Forms.stx (fun s => s.x) ∧ StoreForms Forms.sty (fun s => s.y)

/-- R93 to R102, as sums of natural numbers. That a sum wraps at 65536 is decision D5. The indexed and indirect forms
are stated where the model does not refuse a device near the address (R62). -/
def Obligations.OperandFormsReachTheirAddress : Prop :=
  ∀ (s : State) (n : Byte) (nn : Word),
    let zpx := BitVec.ofNat 16 ((n.toNat + s.x.toNat) % 256)
    let zpy := BitVec.ofNat 16 ((n.toNat + s.y.toNat) % 256)
    let absx := BitVec.ofNat 16 (nn.toNat + s.x.toNat)
    let absy := BitVec.ofNat 16 (nn.toNat + s.y.toNat)
    let indx := BitVec.ofNat 16 ((s.byteAt (zpx + 1#16)).toNat * 256 + (s.byteAt zpx).toNat)
    let indy := BitVec.ofNat 16 ((s.byteAt (BitVec.ofNat 16 (n.toNat + 1))).toNat * 256 +
      (s.byteAt (BitVec.ofNat 16 n.toNat)).toNat + s.y.toNat)
    (Operand.imm n).value s = .next (n, s) ∧
    effectiveAddr (.zp n) s = .next (BitVec.ofNat 16 n.toNat, s) ∧
    effectiveAddr (.abs nn) s = .next (nn, s) ∧
    (s.extraClash zpx = false → effectiveAddr (.zpx n) s = .next (zpx, s)) ∧
    (s.extraClash zpy = false → effectiveAddr (.zpy n) s = .next (zpy, s)) ∧
    (s.extraClash absx = false → effectiveAddr (.absx nn) s = .next (absx, s)) ∧
    (s.extraClash absy = false → effectiveAddr (.absy nn) s = .next (absy, s)) ∧
    ((n.toNat + s.x.toNat) % 256 ≠ 255 → s.IsMemory zpx → s.IsMemory (zpx + 1#16) → s.extraClash indx = false →
      effectiveAddr (.indx n) s = .next (indx, s)) ∧
    (n.toNat ≠ 255 → s.IsMemory (BitVec.ofNat 16 n.toNat) → s.IsMemory (BitVec.ofNat 16 (n.toNat + 1)) →
      s.extraClash indy = false → effectiveAddr (.indy n) s = .next (indy, s)) ∧
    (∀ f ea, effectiveAddr f s = .next (ea, s) → s.IsMemory ea → (Operand.mem f).value s = .next (s.byteAt ea, s))

/-- R101; the two treatments are decision D6. -/
def Obligations.PointerPageCrossAsParameterSays : Prop :=
  ∀ (s : State) (p : Word), p.toNat % 256 = 255 → s.IsMemory p →
    (s.cfg.ptrPageCross = .fault → readPtr p s = .fault (.pointerPageCross p)) ∧
    (s.cfg.ptrPageCross = .wrap → s.IsMemory (BitVec.ofNat 16 (p.toNat - 255)) →
      readPtr p s = .next (word (s.byteAt (BitVec.ofNat 16 (p.toNat - 255))) (s.byteAt p), s))

/-- The operation is the spec's own sentence of the rule, which the spec marks as general knowledge. -/
def Obligations.TransfersCopyTheirRegister : Prop :=
  ∀ s : State,
    exec .tax s = .next { s with
      x := s.a, p := { s.p with n := s.a.getLsbD 7, z := s.a == 0#8 }, pc := s.pc + 1#16, iPoll := s.p.i } ∧
    exec .tay s = .next { s with
      y := s.a, p := { s.p with n := s.a.getLsbD 7, z := s.a == 0#8 }, pc := s.pc + 1#16, iPoll := s.p.i } ∧
    exec .txa s = .next { s with
      a := s.x, p := { s.p with n := s.x.getLsbD 7, z := s.x == 0#8 }, pc := s.pc + 1#16, iPoll := s.p.i } ∧
    exec .tya s = .next { s with
      a := s.y, p := { s.p with n := s.y.getLsbD 7, z := s.y == 0#8 }, pc := s.pc + 1#16, iPoll := s.p.i } ∧
    exec .tsx s = .next { s with
      x := s.sp, p := { s.p with n := s.sp.getLsbD 7, z := s.sp == 0#8 }, pc := s.pc + 1#16, iPoll := s.p.i } ∧
    exec .txs s = .next { s with sp := s.x, pc := s.pc + 1#16, iPoll := s.p.i }

/-- R126 and R127. That bits 5 and 4 of the pushed byte are 1 is decision D8, and the wrap of S decision D17.
`Flags.pushedByte` writes the byte out bit by bit. -/
def Obligations.PushesWriteTheStackCell : Prop :=
  ∀ s : State, s.MayStore (BitVec.ofNat 16 (0x0100 + s.sp.toNat)) →
    (∃ t, exec .pha s = .next t ∧ StoredOnly s (BitVec.ofNat 16 (0x0100 + s.sp.toNat)) s.a s.events t ∧
      t = { s with mem := t.mem, events := t.events, sp := s.sp - 1#8, pc := s.pc + 1#16, iPoll := s.p.i }) ∧
    (∃ t, exec .php s = .next t ∧
      StoredOnly s (BitVec.ofNat 16 (0x0100 + s.sp.toNat)) (s.p.pushedByte true) s.events t ∧
      t = { s with mem := t.mem, events := t.events, sp := s.sp - 1#8, pc := s.pc + 1#16, iPoll := s.p.i })

/-- R128 and R129. That bits 4 and 5 are dropped is decision D8, the lag of I after PLP is R230 (decision D11; log entry
18, PRESUMED), the wrap of S decision D17. -/
def Obligations.PullsReadTheStackCell : Prop :=
  ∀ (s s1 : State) (m : Byte), read (BitVec.ofNat 16 (0x0100 + (s.sp + 1#8).toNat)) s = .next (m, s1) →
    exec .pla s = .next { s with
      a := m, p := { s.p with n := m.getLsbD 7, z := m == 0#8 }, sp := s.sp + 1#8, pc := s.pc + 1#16, iPoll := s.p.i,
      events := s1.events, draws := s1.draws } ∧
    exec .plp s = .next { s with
      p := { n := m.getLsbD 7, v := m.getLsbD 6, d := m.getLsbD 3, i := m.getLsbD 2, z := m.getLsbD 1, c := m.getLsbD 0 },
      sp := s.sp + 1#8, pc := s.pc + 1#16, iPoll := s.p.i, events := s1.events, draws := s1.draws }

/-- The operation is the spec's own sentence of the rule, which the spec marks as general knowledge. -/
def Obligations.LogicCombinesAWithOperand : Prop :=
  ReadForms Forms.and (fun _ _ => True) (fun s m => { s with
    a := s.a &&& m, p := { s.p with n := (s.a &&& m).getLsbD 7, z := s.a &&& m == 0#8 } }) ∧
  ReadForms Forms.ora (fun _ _ => True) (fun s m => { s with
    a := s.a ||| m, p := { s.p with n := (s.a ||| m).getLsbD 7, z := s.a ||| m == 0#8 } }) ∧
  ReadForms Forms.eor (fun _ _ => True) (fun s m => { s with
    a := s.a ^^^ m, p := { s.p with n := (s.a ^^^ m).getLsbD 7, z := s.a ^^^ m == 0#8 } })

/-- The card's footnote; that A and memory are unchanged is marked as general knowledge in R138. -/
def Obligations.BitCopiesOperandBits : Prop :=
  ReadForms Forms.bit (fun _ _ => True) (fun s m => { s with
    p := { s.p with n := m.getLsbD 7, v := m.getLsbD 6, z := s.a &&& m == 0#8 } })

/-- R146 with D = 0, over natural and signed numbers rather than through the adder. The operation is the spec's own
sentence of the rule, which the spec marks as general knowledge. -/
def Obligations.AdcBinaryAddsWithCarry : Prop :=
  ReadForms Forms.adc (fun s _ => s.p.d = false) (fun s m =>
    let t := s.a.toNat + m.toNat + s.p.c.toNat
    let signed := s.a.toInt + m.toInt + (s.p.c.toNat : Int)
    { s with
      a := BitVec.ofNat 8 t
      p := { s.p with
        n := t.testBit 7
        v := decide (signed < -128 ∨ 127 < signed)
        z := decide (t % 256 = 0)
        c := decide (256 ≤ t) } })

/-- R148 with D = 0 and R147's identity, over the integers. The operation is the spec's own sentence of the rule, which
the spec marks as general knowledge. -/
def Obligations.SbcBinarySubtractsWithBorrow : Prop :=
  ReadForms Forms.sbc (fun s _ => s.p.d = false) (fun s m =>
    let d : Int := (s.a.toNat : Int) - m.toNat - (1 - (s.p.c.toNat : Int))
    let signed := s.a.toInt - m.toInt - (1 - (s.p.c.toNat : Int))
    { s with
      a := BitVec.ofInt 8 d
      p := { s.p with
        n := (BitVec.ofInt 8 d).getLsbD 7
        v := decide (signed < -128 ∨ 127 < signed)
        z := decide (d % 256 = 0)
        c := decide (0 ≤ d) } })

/-- R150 under `strict`, decision D7. The free bits are numbered by the model (log entry 7) and may have any value. -/
def Obligations.DecimalStrictOnValidBcd : Prop :=
  ∀ (n : Byte) (nn : Word) (i : Instr) (o : Operand) (s s1 : State) (m : Byte), o.value s = .next (m, s1) →
    s.p.d = true → s.cfg.decimal = .strict → validBcd s.a = true → validBcd m = true →
    ∃ fn fv fz : Bool, fz = Config.freeBit s1.draws ∧ fn = Config.freeBit (s1.draws + 1) ∧ fv = Config.freeBit (s1.draws + 2) ∧
    ((i, o) ∈ Forms.adc n nn →
      let t := (10 * (s.a.toNat / 16) + s.a.toNat % 16) + (10 * (m.toNat / 16) + m.toNat % 16) + s.p.c.toNat
      exec i s = .next { s with
        a := BitVec.ofNat 8 (t % 100 / 10 * 16 + t % 10)
        p := { s.p with n := fn, v := fv, z := fz, c := decide (100 ≤ t) }
        pc := s.pc + BitVec.ofNat 16 o.length
        iPoll := s.p.i
        events := s1.events
        draws := s1.draws + 3 }) ∧
    ((i, o) ∈ Forms.sbc n nn →
      let d : Int := (10 * (s.a.toNat / 16) + s.a.toNat % 16 : Nat) - (10 * (m.toNat / 16) + m.toNat % 16 : Nat) -
        (1 - (s.p.c.toNat : Int))
      exec i s = .next { s with
        a := BitVec.ofInt 8 (d % 100 / 10 * 16 + d % 10)
        p := { s.p with n := fn, v := fv, z := fz, c := decide (0 ≤ d) }
        pc := s.pc + BitVec.ofNat 16 o.length
        iPoll := s.p.i
        events := s1.events
        draws := s1.draws + 3 })

/-- R150 under `strict` and U2. The draws are numbered by the model (log entry 7) and may have any value. -/
def Obligations.DecimalStrictOnInvalidBcd : Prop :=
  ∀ (n : Byte) (nn : Word) (i : Instr) (o : Operand) (s s1 : State) (m : Byte), (i, o) ∈ Forms.adc n nn ++ Forms.sbc n nn →
    o.value s = .next (m, s1) → s.p.d = true → s.cfg.decimal = .strict → (validBcd s.a && validBcd m) = false →
    exec i s = .next { s with
      a := Config.freeByte s1.draws
      p := { s.p with
        c := Config.freeBit (s1.draws + 1)
        z := Config.freeBit (s1.draws + 2)
        n := Config.freeBit (s1.draws + 3)
        v := Config.freeBit (s1.draws + 4) }
      pc := s.pc + BitVec.ofNat 16 o.length
      iPoll := s.p.i
      events := s1.events
      draws := s1.draws + 5 }

/-- R151, bit by bit over natural numbers; the rule is marked as general knowledge in the spec. -/
def Obligations.DecimalNmosAdcAsTheRuleComputes : Prop :=
  ReadForms Forms.adc (fun s _ => s.p.d = true ∧ s.cfg.decimal = .nmos) (fun s m =>
    let lo := s.a.toNat % 16 + m.toNat % 16 + s.p.c.toNat
    let lo := if lo ≥ 0x0A then ((lo + 0x06) &&& 0x0F) + 0x10 else lo
    let t := (s.a.toNat &&& 0xF0) + (m.toNat &&& 0xF0) + lo
    let t' := if t ≥ 0xA0 then t + 0x60 else t
    { s with
      a := BitVec.ofNat 8 t'
      p := { s.p with
        n := t.testBit 7
        v := ((s.a.toNat ^^^ t) &&& (m.toNat ^^^ t)).testBit 7
        c := decide (t' ≥ 0x100)
        z := decide ((s.a.toNat + m.toNat + s.p.c.toNat) % 256 = 0) } })

/-- R152 over the integers; the rule is marked as general knowledge in the spec. That the negative low digit is reduced
modulo 16 is log entry 13 (DEDUCED). -/
def Obligations.DecimalNmosSbcAsTheRuleComputes : Prop :=
  ReadForms Forms.sbc (fun s _ => s.p.d = true ∧ s.cfg.decimal = .nmos) (fun s m =>
    let b : Int := (s.a.toNat : Int) - m.toNat - (1 - (s.p.c.toNat : Int))
    let signed := s.a.toInt - m.toInt - (1 - (s.p.c.toNat : Int))
    let lo : Int := ((s.a.toNat % 16 : Nat) : Int) - (m.toNat % 16 : Nat) + (s.p.c.toNat : Int) - 1
    let lo := if lo < 0 then (lo - 0x06) % 16 - 0x10 else lo
    let t : Int := ((s.a.toNat &&& 0xF0 : Nat) : Int) - (m.toNat &&& 0xF0 : Nat) + lo
    let t := if t < 0 then t - 0x60 else t
    { s with
      a := BitVec.ofInt 8 t
      p := { s.p with
        n := (BitVec.ofInt 8 b).getLsbD 7
        v := decide (signed < -128 ∨ 127 < signed)
        z := decide (b % 256 = 0)
        c := decide (0 ≤ b) } })

/-- R150: "It agrees with `strict` on A and C for valid BCD operands and fixes every draw."; R152's last sentence. How
R152 reduces its negative low digit is log entry 13 (DEDUCED). -/
def Obligations.DecimalNmosAgreesWithStrict : Prop :=
  ∀ (s : State) (m : Byte), s.p.d = true → validBcd s.a = true → validBcd m = true →
    (adcNmos m s).a = (addDec s.a m s.p.c).1 ∧ (adcNmos m s).p.c = (addDec s.a m s.p.c).2 ∧
    (sbcNmos m s).a = (subDec s.a m s.p.c).1 ∧ (sbcNmos m s).p.c = (subDec s.a m s.p.c).2

/-- "Internally, A-n is computed to determine N,Z,C flags." That the registers are kept is marked as general knowledge
in R153. -/
def Obligations.ComparesAreUnsigned : Prop :=
  ReadForms Forms.cmp (fun _ _ => True) (fun s m => { s with
    p := { s.p with n := (s.a - m).getLsbD 7, z := decide (s.a = m), c := decide (m.toNat ≤ s.a.toNat) } }) ∧
  ReadForms Forms.cpx (fun _ _ => True) (fun s m => { s with
    p := { s.p with n := (s.x - m).getLsbD 7, z := decide (s.x = m), c := decide (m.toNat ≤ s.x.toNat) } }) ∧
  ReadForms Forms.cpy (fun _ _ => True) (fun s m => { s with
    p := { s.p with n := (s.y - m).getLsbD 7, z := decide (s.y = m), c := decide (m.toNat ≤ s.y.toNat) } })

/-- The card's table of unsigned comparisons, R156. -/
def Obligations.BranchesAfterCompareTestUnsignedOrder : Prop :=
  ∀ (s t : State) (n d d' : Byte), exec (.cmpImm n) s = .next t →
    let at_ (u : State) (c : Prop) [Decidable c] (d : Byte) : Result :=
      .next { u with pc := if c then branchTarget u.pc d else u.pc + 2#16, iPoll := u.p.i }
    exec (.bcc d) t = at_ t (s.a.toNat < n.toNat) d ∧
    exec (.beq d) t = at_ t (s.a = n) d ∧
    exec (.bcs d) t = at_ t (n.toNat ≤ s.a.toNat) d ∧
    exec (.bne d) t = at_ t (s.a ≠ n) d ∧
    ∀ u, exec (.bcc d) t = .next u → ¬ s.a.toNat < n.toNat →
      exec (.bne d') u = at_ u (n.toNat < s.a.toNat) d' ∧ exec (.beq d') u = at_ u (s.a.toNat ≤ n.toNat) d'

/-- The operation is the spec's own sentence of the rule, which the spec marks as general knowledge. The address that
the fault writeToRom carries is log entry 16 (the model's DESIGN CHOICE). -/
def Obligations.IncDecMemoryByOne : Prop :=
  ModifyForms Forms.inc (fun _ => True) (fun m p =>
    (BitVec.ofNat 8 (m.toNat + 1), { p with
      n := (BitVec.ofNat 8 (m.toNat + 1)).getLsbD 7, z := decide ((m.toNat + 1) % 256 = 0) })) ∧
  ModifyForms Forms.dec (fun _ => True) (fun m p =>
    (BitVec.ofNat 8 (m.toNat + 255), { p with
      n := (BitVec.ofNat 8 (m.toNat + 255)).getLsbD 7, z := decide ((m.toNat + 255) % 256 = 0) }))

/-- The operation is the spec's own sentence of the rule, which the spec marks as general knowledge. -/
def Obligations.IncDecRegistersByOne : Prop :=
  ∀ s : State,
    exec .inx s = .next { s with
      x := s.x + 1#8, p := { s.p with n := (s.x + 1#8).getLsbD 7, z := decide (s.x = 0xFF#8) }, pc := s.pc + 1#16,
      iPoll := s.p.i } ∧
    exec .iny s = .next { s with
      y := s.y + 1#8, p := { s.p with n := (s.y + 1#8).getLsbD 7, z := decide (s.y = 0xFF#8) }, pc := s.pc + 1#16,
      iPoll := s.p.i } ∧
    exec .dex s = .next { s with
      x := s.x - 1#8, p := { s.p with n := (s.x - 1#8).getLsbD 7, z := decide (s.x = 1#8) }, pc := s.pc + 1#16,
      iPoll := s.p.i } ∧
    exec .dey s = .next { s with
      y := s.y - 1#8, p := { s.p with n := (s.y - 1#8).getLsbD 7, z := decide (s.y = 1#8) }, pc := s.pc + 1#16,
      iPoll := s.p.i }

/-- The A forms of R170 to R173, over natural numbers. The operation is the spec's own sentence of the rule, which the
spec marks as general knowledge. -/
def Obligations.ShiftsOfAMoveOnePlace : Prop :=
  ∀ s : State,
    exec .aslAcc s = .next { s with
      a := BitVec.ofNat 8 (s.a.toNat * 2),
      p := { s.p with n := (BitVec.ofNat 8 (s.a.toNat * 2)).getLsbD 7, z := BitVec.ofNat 8 (s.a.toNat * 2) == 0#8, c := s.a.getLsbD 7 },
      pc := s.pc + 1#16, iPoll := s.p.i } ∧
    exec .lsrAcc s = .next { s with
      a := BitVec.ofNat 8 (s.a.toNat / 2),
      p := { s.p with n := false, z := BitVec.ofNat 8 (s.a.toNat / 2) == 0#8, c := s.a.getLsbD 0 },
      pc := s.pc + 1#16, iPoll := s.p.i } ∧
    exec .rolAcc s = .next { s with
      a := BitVec.ofNat 8 (s.a.toNat * 2 % 256 + s.p.c.toNat),
      p := { s.p with n := (BitVec.ofNat 8 (s.a.toNat * 2 % 256 + s.p.c.toNat)).getLsbD 7, z := BitVec.ofNat 8 (s.a.toNat * 2 % 256 + s.p.c.toNat) == 0#8, c := s.a.getLsbD 7 },
      pc := s.pc + 1#16, iPoll := s.p.i } ∧
    (s.cfg.hasRor = true → exec .rorAcc s = .next { s with
      a := BitVec.ofNat 8 (s.a.toNat / 2 + s.p.c.toNat * 128),
      p := { s.p with n := (BitVec.ofNat 8 (s.a.toNat / 2 + s.p.c.toNat * 128)).getLsbD 7, z := BitVec.ofNat 8 (s.a.toNat / 2 + s.p.c.toNat * 128) == 0#8, c := s.a.getLsbD 0 },
      pc := s.pc + 1#16, iPoll := s.p.i })

/-- The memory forms of R170 to R173. The operation is the spec's own sentence of the rule, which the spec marks as
general knowledge. The address that the fault writeToRom carries is log entry 16 (the model's DESIGN CHOICE). -/
def Obligations.ShiftsOfMemoryMoveOnePlace : Prop :=
  ModifyForms Forms.asl (fun _ => True) (fun m p =>
    (BitVec.ofNat 8 (m.toNat * 2),
      { p with n := (BitVec.ofNat 8 (m.toNat * 2)).getLsbD 7, z := BitVec.ofNat 8 (m.toNat * 2) == 0#8, c := m.getLsbD 7 })) ∧
  ModifyForms Forms.lsr (fun _ => True) (fun m p =>
    (BitVec.ofNat 8 (m.toNat / 2),
      { p with n := false, z := BitVec.ofNat 8 (m.toNat / 2) == 0#8, c := m.getLsbD 0 })) ∧
  ModifyForms Forms.rol (fun _ => True) (fun m p =>
    (BitVec.ofNat 8 (m.toNat * 2 % 256 + p.c.toNat),
      { p with n := (BitVec.ofNat 8 (m.toNat * 2 % 256 + p.c.toNat)).getLsbD 7, z := BitVec.ofNat 8 (m.toNat * 2 % 256 + p.c.toNat) == 0#8, c := m.getLsbD 7 })) ∧
  ModifyForms Forms.ror (fun s => s.cfg.hasRor = true) (fun m p =>
    (BitVec.ofNat 8 (m.toNat / 2 + p.c.toNat * 128),
      { p with n := (BitVec.ofNat 8 (m.toNat / 2 + p.c.toNat * 128)).getLsbD 7, z := BitVec.ofNat 8 (m.toNat / 2 + p.c.toNat * 128) == 0#8, c := m.getLsbD 0 }))

/-- R6 and R173; the treatment is decision D3. -/
def Obligations.RorIsIllegalWithoutRor : Prop :=
  ∀ (s : State) (n : Byte) (nn : Word), s.cfg.hasRor = false →
    exec (.rorZp n) s = .fault (.illegalOpcode 0x66#8 s.pc) ∧
    exec .rorAcc s = .fault (.illegalOpcode 0x6A#8 s.pc) ∧
    exec (.rorAbs nn) s = .fault (.illegalOpcode 0x6E#8 s.pc) ∧
    exec (.rorZpx n) s = .fault (.illegalOpcode 0x76#8 s.pc) ∧
    exec (.rorAbsx nn) s = .fault (.illegalOpcode 0x7E#8 s.pc)

/-- R181 to R188 in the common form of R180. The conditions of BPL, BMI, BVC and BVS are marked as general knowledge;
the wrap of the target and of PC + 2 is decision D4 (log entry 17, PRESUMED). -/
def Obligations.BranchesTestOneFlag : Prop :=
  ∀ (s : State) (n : Byte),
    let goes (taken : Bool) : Result :=
      .next { s with
        pc := if taken then BitVec.ofInt 16 ((s.pc.toNat : Int) + 2 + n.toInt) else BitVec.ofNat 16 (s.pc.toNat + 2)
        iPoll := s.p.i }
    exec (.bpl n) s = goes (s.p.n == false) ∧
    exec (.bmi n) s = goes (s.p.n == true) ∧
    exec (.bvc n) s = goes (s.p.v == false) ∧
    exec (.bvs n) s = goes (s.p.v == true) ∧
    exec (.bcc n) s = goes (s.p.c == false) ∧
    exec (.bcs n) s = goes (s.p.c == true) ∧
    exec (.bne n) s = goes (s.p.z == false) ∧
    exec (.beq n) s = goes (s.p.z == true)

/-- R189 and R190; what the pointer read does at a page end is R101. -/
def Obligations.JumpsGoToTheirTarget : Prop :=
  ∀ (s : State) (nn : Word),
    exec (.jmpAbs nn) s = .next { s with pc := nn, iPoll := s.p.i } ∧
    (∀ t s1, readPtr nn s = .next (t, s1) →
      exec (.jmpInd nn) s = .next { s with pc := t, iPoll := s.p.i, events := s1.events, draws := s1.draws }) ∧
    (∀ e, readPtr nn s = .fault e → exec (.jmpInd nn) s = .fault e) ∧
    (nn.toNat % 256 ≠ 255 → s.IsMemory nn → s.IsMemory (nn + 1#16) →
      readPtr nn s = .next (BitVec.ofNat 16 ((s.byteAt (nn + 1#16)).toNat * 256 + (s.byteAt nn).toNat), s))

/-- R191; the frame is decision D22, the wrap of S decision D17, and the refusal U13. Which overlap counts, only cells
that a push can change, is log entry 10 (DEDUCED), and the address in writeToRom log entry 16 (DESIGN CHOICE).
`State.JsrOverwritesOperand` writes the overlap out on cells. -/
def Obligations.JsrPushesItsLastByteAddress : Prop :=
  ∀ (s : State) (nn : Word),
    let a := BitVec.ofNat 16 (0x0100 + s.sp.toNat)
    let b := BitVec.ofNat 16 (0x0100 + (s.sp - 1#8).toNat)
    let hi := BitVec.ofNat 8 ((s.pc + 2#16).toNat / 256)
    let lo := BitVec.ofNat 8 (s.pc + 2#16).toNat
    (s.JsrOverwritesOperand → exec (.jsr nn) s = .refused (.jsrOverwritesOperand s.pc)) ∧
    (¬ s.JsrOverwritesOperand →
      (s.IsRam a → s.IsRam b → exec (.jsr nn) s = .next { s with
        mem := ((s.storeCell a hi).storeCell b lo).mem
        sp := s.sp - 2#8
        pc := nn
        iPoll := s.p.i }) ∧
      (s.MayStore a → s.MayStore b → ∃ u v, write a hi s = .next u ∧ write b lo u = .next v ∧
        exec (.jsr nn) s = .next { v with sp := s.sp - 2#8, pc := nn, iPoll := s.p.i }) ∧
      (¬ s.MayStore a → exec (.jsr nn) s = .fault (.writeToRom a)) ∧
      (s.MayStore a → ¬ s.MayStore b → exec (.jsr nn) s = .fault (.writeToRom b)))

/-- R192; the + 1 is decision D22. -/
def Obligations.RtsReturnsPastThePulledAddress : Prop :=
  ∀ s : State, s.IsMemory (stackAddr (s.sp + 1#8)) → s.IsMemory (stackAddr (s.sp + 2#8)) →
    exec .rts s = .next { s with
      sp := s.sp + 2#8
      pc := BitVec.ofNat 16
        ((s.byteAt (stackAddr (s.sp + 2#8))).toNat * 256 + (s.byteAt (stackAddr (s.sp + 1#8))).toNat + 1)
      iPoll := s.p.i }

/-- The card's flag table, as corrected in 90_conflicts.md C6. What i_poll becomes is R230, and its lag after CLI and
SEI is decision D11 (log entry 18, PRESUMED). -/
def Obligations.FlagInstructionsWriteOneFlag : Prop :=
  ∀ s : State,
    exec .clc s = .next { s with p := { s.p with c := false }, pc := s.pc + 1#16, iPoll := s.p.i } ∧
    exec .sec s = .next { s with p := { s.p with c := true }, pc := s.pc + 1#16, iPoll := s.p.i } ∧
    exec .cld s = .next { s with p := { s.p with d := false }, pc := s.pc + 1#16, iPoll := s.p.i } ∧
    exec .sed s = .next { s with p := { s.p with d := true }, pc := s.pc + 1#16, iPoll := s.p.i } ∧
    exec .clv s = .next { s with p := { s.p with v := false }, pc := s.pc + 1#16, iPoll := s.p.i } ∧
    exec .cli s = .next { s with p := { s.p with i := false }, pc := s.pc + 1#16, iPoll := s.p.i } ∧
    exec .sei s = .next { s with p := { s.p with i := true }, pc := s.pc + 1#16, iPoll := s.p.i } ∧
    exec .nop s = .next { s with pc := s.pc + 1#16, iPoll := s.p.i }

/-- R208. The pushed PC and the vector are decision D12, the bits of the pushed P decision D8. `State.entered` writes
the next state out, and `Flags.pushedByte` the byte pushed for P bit by bit. -/
def Obligations.BrkEntersThroughTheIrqVector : Prop :=
  ∀ s : State, s.StackRam → s.IsMemory 0xFFFE#16 → s.IsMemory 0xFFFF#16 →
    exec .brk s = .next (s.entered (s.pc + 2#16) true 0xFFFE#16)

/-- R209 and R228; that bits 5 and 4 are dropped is decision D8, the absence of a lag R230. -/
def Obligations.RtiRestoresFlagsAndPc : Prop :=
  ∀ s : State, s.IsMemory (stackAddr (s.sp + 1#8)) → s.IsMemory (stackAddr (s.sp + 2#8)) →
    s.IsMemory (stackAddr (s.sp + 3#8)) →
    let v := s.byteAt (stackAddr (s.sp + 1#8))
    exec .rti s = .next { s with
      p := { n := v.getLsbD 7, v := v.getLsbD 6, d := v.getLsbD 3, i := v.getLsbD 2, z := v.getLsbD 1, c := v.getLsbD 0 }
      sp := s.sp + 3#8
      pc := word (s.byteAt (stackAddr (s.sp + 3#8))) (s.byteAt (stackAddr (s.sp + 2#8)))
      iPoll := v.getLsbD 2 }

/-- The "-" entries of the table of R39 over all 151 instructions. -/
def Obligations.FlagsChangeOnlyAsTabled : Prop :=
  ∀ (i : Instr) (s t : State), exec i s = .next t →
    (i.mnemonic.flagsWritten.n = false → t.p.n = s.p.n) ∧ (i.mnemonic.flagsWritten.v = false → t.p.v = s.p.v) ∧
    (i.mnemonic.flagsWritten.d = false → t.p.d = s.p.d) ∧ (i.mnemonic.flagsWritten.i = false → t.p.i = s.p.i) ∧
    (i.mnemonic.flagsWritten.z = false → t.p.z = s.p.z) ∧ (i.mnemonic.flagsWritten.c = false → t.p.c = s.p.c) ∧
    (i.mnemonic = .lsr → t.p.n = false) ∧ (i.mnemonic = .brk → t.p.i = true)

/-- The "written by" lists of R21 and R22, and for S rules R125 to R129, R191, R192, R208 and R209. -/
def Obligations.RegistersChangeOnlyByTheirWriters : Prop :=
  ∀ (i : Instr) (s t : State), exec i s = .next t →
    (i.writesA = false → t.a = s.a) ∧ (i.writesX = false → t.x = s.x) ∧ (i.writesY = false → t.y = s.y) ∧
    (i.writesS = false → t.sp = s.sp) ∧ t.nmiPrev = s.nmiPrev ∧ t.nmiPending = s.nmiPending ∧ t.inputs = s.inputs ∧
    t.environment = s.environment ∧ t.time = s.time ∧
    t.cfg = s.cfg

/-- R116 ("The zero-page pointer cells ... are not modified"), R128 ("The cell is not erased") and the operations of the
other rules. -/
def Obligations.MemoryChangesOnlyByWriters : Prop :=
  ∀ (i : Instr) (s t : State), exec i s = .next t → i.writesMemory = false → ∀ a : Word, t.byteAt a = s.byteAt a

/-- R26 and R27: the stack cell that S designates; the frame over any platform and any alias. -/
def Obligations.PushesChangeOnlyStackCells : Prop :=
  ∀ (s t : State) (nn b : Word), s.cell b ≠ s.cell (stackAddr s.sp) →
    ((exec .pha s = .next t ∨ exec .php s = .next t) → t.byteAt b = s.byteAt b) ∧
    (s.cell b ≠ s.cell (stackAddr (s.sp - 1#8)) →
      (exec (.jsr nn) s = .next t → t.byteAt b = s.byteAt b) ∧
      (s.cell b ≠ s.cell (stackAddr (s.sp - 2#8)) → exec .brk s = .next t → t.byteAt b = s.byteAt b))

/-- R223, R224 and R226; the priority is decision D10 and B = 0 decision D8. `State.entered` writes the next state out,
and `Flags.pushedByte` the byte pushed for P bit by bit. -/
def Obligations.NmiEntryWhateverTheMask : Prop :=
  ∀ s : State, s.boundary.res = false → s.boundary.take = true →
    (s.nmiPending = true ∨ (s.boundary.nmi = true ∧ s.nmiPrev = false)) →
    s.StackRam → s.IsMemory 0xFFFA#16 → s.IsMemory 0xFFFB#16 →
    step s = .next (({ s.sampled with nmiPending := false }).entered s.pc false 0xFFFA#16)

/-- R222 and R226; B = 0 is decision D8. `State.entered` writes the next state out, and `Flags.pushedByte` the byte
pushed for P bit by bit. -/
def Obligations.IrqEntryWhenUnmasked : Prop :=
  ∀ s : State, s.boundary.res = false → s.boundary.take = true → s.sampled.nmiPending = false →
    s.boundary.irq = true → s.iPoll = false → s.StackRam → s.IsMemory 0xFFFE#16 → s.IsMemory 0xFFFF#16 →
    step s = .next (s.sampled.entered s.pc false 0xFFFE#16)

/-- R222, R223 and R225: IRQ is never taken while i_poll = 1 (R263), and delivery may wait. The schedule is an input of
the model (log entry 6). -/
def Obligations.NoInterruptWhereNoneIsTakable : Prop :=
  ∀ s : State, s.boundary.res = false →
    (s.boundary.take = false ∨ (s.sampled.nmiPending = false ∧ (s.boundary.irq = false ∨ s.iPoll = true))) →
    step s = runInstruction s.sampled

/-- R219: "a line held asserted causes one NMI only"; R221. -/
def Obligations.HeldNmiLineIsTakenOnce : Prop :=
  (∀ s t : State, s.boundary.nmi = true → step s = .next t →
    (nextEvent s.boundary s.sampled = .nmi ∨ (s.nmiPrev = true ∧ s.nmiPending = false)) →
    t.nmiPrev = true ∧ t.nmiPending = false) ∧
  (∀ s : State, s.boundary.nmi = true → s.nmiPrev = true → s.nmiPending = false →
    nextEvent s.boundary s.sampled ≠ .nmi) ∧
  ∀ (path : Nat → State) (k : Nat), nextEvent (path 0).boundary (path 0).sampled = .nmi →
    (∀ j, j ≤ k → (path j).boundary.nmi = true) → (∀ j, j < k → step (path j) = .next (path (j + 1))) →
    ∀ j, 1 ≤ j → j ≤ k → nextEvent (path j).boundary (path j).sampled ≠ .nmi

/-- R230 over all instructions; it is the spec's decision D11 from general knowledge. -/
def Obligations.IPollLagsOnlyAfterCliSeiPlp : Prop :=
  ∀ (i : Instr) (s t : State), exec i s = .next t → t.iPoll = if i.lagsI then s.p.i else t.p.i

/-- R250 to R252 (decisions D9, D10). The draws are numbered by the model (log entry 7) and may have any value. -/
def Obligations.ResetStepKeepsMemory : Prop :=
  ∀ s : State, s.boundary.res = true → s.IsMemory 0xFFFC#16 → s.IsMemory 0xFFFD#16 →
    step s = .next { s with
      a := Config.freeByte s.draws
      x := Config.freeByte (s.draws + 1)
      y := Config.freeByte (s.draws + 2)
      sp := Config.freeByte (s.draws + 3)
      p := {
        n := Config.freeBit (s.draws + 4)
        v := Config.freeBit (s.draws + 5)
        d := Config.freeBit (s.draws + 6)
        i := true
        z := Config.freeBit (s.draws + 7)
        c := Config.freeBit (s.draws + 8) }
      pc := word (s.byteAt 0xFFFD#16) (s.byteAt 0xFFFC#16)
      nmiPrev := s.boundary.nmi
      nmiPending := false
      iPoll := true
      inputs := s.inputs.tail
      time := s.time + 1
      draws := s.draws + 9 }

/-- R191 and R192: the value pushed is one less than the address of the next instruction, and RTS makes up the
difference (decision D22). -/
def Obligations.RtsUndoesJsr : Prop :=
  ∀ (s t : State) (nn : Word), s.IsRam (stackAddr s.sp) → s.IsRam (stackAddr (s.sp - 1#8)) →
    s.cell (stackAddr s.sp) ≠ s.cell (stackAddr (s.sp - 1#8)) → exec (.jsr nn) s = .next t →
    ∃ u, exec .rts t = .next u ∧ u.pc = s.pc + 3#16 ∧ u.sp = s.sp ∧ u.a = s.a ∧ u.x = s.x ∧ u.y = s.y ∧ u.p = s.p ∧
      u.mem = t.mem

/-- R227 and R228: the return restores what the entry saved. BRK's + 2 is decision D12. -/
def Obligations.RtiUndoesExceptionEntry : Prop :=
  ∀ s t : State, s.StackRam → s.StackDistinct →
    let resumes (pc : Word) : Prop :=
      ∃ u, exec .rti t = .next u ∧ u.pc = pc ∧ u.sp = s.sp ∧ u.a = s.a ∧ u.x = s.x ∧ u.y = s.y ∧ u.p = s.p ∧
        u.iPoll = s.p.i ∧ u.mem = t.mem
    (exec .brk s = .next t → resumes (s.pc + 2#16)) ∧
    (nextEvent s.boundary s.sampled = .irq ∨ nextEvent s.boundary s.sampled = .nmi → step s = .next t → resumes s.pc)

/-- R54, the spec's decision D16. That the answer may depend on the very read is log entry 8, and that a fault carries
the issued address, before alias, is log entry 16 (both DESIGN CHOICE). -/
def Obligations.PlatformAnswersEachAccess : Prop :=
  ∀ (s : State) (a : Word) (v : Byte),
    (s.kindAt a = .ram ∨ s.kindAt a = .rom → read a s = .next (s.byteAt a, s)) ∧
    (∀ b, s.kindAt a = .device b →
      read a s = .next (Config.devRead (.read (s.cell a) :: s.events) (s.cell a),
        { s with events := .read (s.cell a) :: s.events }) ∧
      write a v s = .next { s with events := .write (s.cell a) v :: s.events }) ∧
    (s.kindAt a = .unpopulated →
      (s.cfg.platform.onNoneRead = .draw → read a s = .next (Config.freeByte s.draws, { s with draws := s.draws + 1 })) ∧
      (s.cfg.platform.onNoneRead = .fault → read a s = .fault (.unpopulatedAccess a)) ∧ write a v s = .next s) ∧
    (s.kindAt a = .rom →
      (s.cfg.platform.onRomWrite = .ignore → write a v s = .next s) ∧
      (s.cfg.platform.onRomWrite = .fault → write a v s = .fault (.writeToRom a))) ∧
    (s.kindAt a = .ram → write a v s = .next { s with mem := s.mem.write (s.cell a).toNat v })

/-- R60: "a read returns the value of the most recent write to the same cell (under `alias`)". The last clause is about
the model's canonical memory (log entry 2). -/
def Obligations.ReadGivesMostRecentWrite : Prop :=
  ∀ (s t : State) (a b : Word) (v w : Byte), s.kindAt a = .ram → write a v s = .next t →
    (s.cell b = s.cell a → read b t = .next (v, t)) ∧
    (s.cell b ≠ s.cell a → s.kindAt b = .ram ∨ s.kindAt b = .rom → read b t = .next (s.byteAt b, t)) ∧
    (s.cfg.platform.AliasIdempotent → read (s.cell a) t = .next (v, t)) ∧
    (Memory.wf s.mem → s.cell b = s.cell a → write b w t = write a w s)

/-- R28 and the card's footnote on AB8, as a platform alias. -/
def Obligations.StackMovesToPageZeroWithoutAb8 : Prop :=
  ∀ (s : State) (v : Byte), s.cfg.platform.aliases = [{ base := 0x0100, size := 0x0100, target := 0x0000 }] →
    s.IsRam (zext s.sp) → ∃ t, push v s = .next t ∧ t.byteAt (zext s.sp) = v

/-- R62 and U12; the parameter is log entry 9 (DESIGN CHOICE). `State.NearDevice` writes "near" out as the existence of
such an address. -/
def Obligations.DeviceNeighboursAreRefused : Prop :=
  ∀ s : State,
    (∀ ea, s.extraClash ea = true ↔ s.cfg.extraBus = .refuse ∧ s.NearDevice ea) ∧
    (s.cfg.extraBus = .refuse → ∀ (n : Byte) (nn : Word),
      let zpx := BitVec.ofNat 16 ((n.toNat + s.x.toNat) % 256)
      let zpy := BitVec.ofNat 16 ((n.toNat + s.y.toNat) % 256)
      let absx := BitVec.ofNat 16 (nn.toNat + s.x.toNat)
      let absy := BitVec.ofNat 16 (nn.toNat + s.y.toNat)
      (s.NearDevice zpx → effectiveAddr (.zpx n) s = .refused (.deviceExtraAccess zpx)) ∧
      (s.NearDevice zpy → effectiveAddr (.zpy n) s = .refused (.deviceExtraAccess zpy)) ∧
      (s.NearDevice absx → effectiveAddr (.absx nn) s = .refused (.deviceExtraAccess absx)) ∧
      (s.NearDevice absy → effectiveAddr (.absy nn) s = .refused (.deviceExtraAccess absy)) ∧
      (∀ ea u, readPtr zpx s = .next (ea, u) → s.NearDevice ea →
        effectiveAddr (.indx n) s = .refused (.deviceExtraAccess ea)) ∧
      (∀ base u, readPtr (BitVec.ofNat 16 n.toNat) s = .next (base, u) →
        s.NearDevice (BitVec.ofNat 16 (base.toNat + s.y.toNat)) →
        effectiveAddr (.indy n) s = .refused (.deviceExtraAccess (BitVec.ofNat 16 (base.toNat + s.y.toNat)))) ∧
      (∀ i f ea u, (i, f) ∈ Forms.modifies n nn → (i.mnemonic = .ror → s.cfg.hasRor = true) →
        effectiveAddr f s = .next (ea, u) → s.NearDevice ea → exec i s = .refused (.deviceExtraAccess ea))) ∧
    (∀ (n : Byte) (nn : Word) (i : Instr) (f : AddrForm),
      (∀ r, effectiveAddr f s = .refused r →
        ((i, Operand.mem f) ∈ Forms.reads n nn → exec i s = .refused r) ∧
        ((i, f) ∈ Forms.stores n nn → exec i s = .refused r) ∧
        ((i, f) ∈ Forms.modifies n nn → (i.mnemonic = .ror → s.cfg.hasRor = true) → exec i s = .refused r)) ∧
      (f = .zp n ∨ f = .abs nn → (i, Operand.mem f) ∈ Forms.reads n nn ∨ (i, f) ∈ Forms.stores n nn →
        ∀ r, exec i s ≠ .refused r))

/-- R61 (decision D14): no fence or flush is needed between the store and the fetch. What a read-modify-write stores is
said by IncDecMemoryByOne and ShiftsOfMemoryMoveOnePlace. -/
def Obligations.StoreIsSeenByTheNextFetch : Prop :=
  ∀ (n : Byte) (nn : Word) (i j : Instr) (f : AddrForm) (s s1 t : State) (ea : Word) (v : Byte) (rest : List Byte),
    ((i, f) ∈ Forms.sta n nn ∧ v = s.a) ∨ ((i, f) ∈ Forms.stx n nn ∧ v = s.x) ∨ ((i, f) ∈ Forms.sty n nn ∧ v = s.y) ∨
      ((i, f) ∈ Forms.modifies n nn ∧ v = t.byteAt ea) →
    effectiveAddr f s = .next (ea, s1) → s.IsRam ea → exec i s = .next t →
    let pc := s.pc + BitVec.ofNat 16 f.length
    let byte (k : Word) : Byte := if s.cell (pc + k) = s.cell ea then v else s.byteAt (pc + k)
    (∀ k, k < j.length → s.IsMemory (pc + BitVec.ofNat 16 k)) →
    decode [byte 0#16, byte 1#16, byte 2#16] = .ok (j, rest) →
    nextEvent t.boundary t.sampled = .instruction → step t = exec j t.sampled

/-- R264 and decision D19: the predicate is the argument of whoever makes the claim (log entry 20). -/
def Obligations.RunsStopAtEndOfRun : Prop :=
  (∀ (endOfRun : State → Bool) (k : Nat) (s t : State),
    (run endOfRun k s = .ended t ↔ ∃ j, j ≤ k ∧ Steps j s t ∧ endOfRun t = true ∧
      ∀ i u, i < j → Steps i s u → endOfRun u = false) ∧
    (run endOfRun k s = .running t ↔ Steps k s t ∧ ∀ i u, i ≤ k → Steps i s u → endOfRun u = false) ∧
    (run endOfRun k s = .ended t → ∀ m, run endOfRun (k + m) s = .ended t)) ∧
  (∀ (s : State) (a : Word), s.atAddress a = true ↔ s.pc = a) ∧
  (∀ s : State, s.atSelfJump = true ↔ ∃ rest,
    decode [s.byteAt s.pc, s.byteAt (s.pc + 1#16), s.byteAt (s.pc + 2#16)] = .ok (.jmpAbs s.pc, rest)) ∧
  ∀ s : State, s.atBrk = true ↔ ∃ rest,
    decode [s.byteAt s.pc, s.byteAt (s.pc + 1#16), s.byteAt (s.pc + 2#16)] = .ok (.brk, rest)
end

