-- ==== Sys2Proof/Laws/Bits.lean ====
section
/-! SUPPORT. Splitting a two-byte quantity and putting it together again. -/

namespace Sys2Proof.Machine

theorem word_toNat (hi lo : Byte) : (word hi lo).toNat = hi.toNat * 256 + lo.toNat := by
  have := hi.isLt; have := lo.isLt
  rw [word, BitVec.toNat_ofNat, Nat.mod_eq_of_lt (by omega)]

theorem lowByte_toNat (v : Word) : (lowByte v).toNat = v.toNat % 256 := by simp [lowByte]

theorem highByte_toNat (v : Word) : (highByte v).toNat = v.toNat / 256 := by
  have := v.isLt
  simp only [highByte, BitVec.toNat_ofNat]; omega

@[simp] theorem lowByte_word (hi lo : Byte) : lowByte (word hi lo) = lo := by
  have := lo.isLt
  apply BitVec.eq_of_toNat_eq; rw [lowByte_toNat, word_toNat]; omega

@[simp] theorem highByte_word (hi lo : Byte) : highByte (word hi lo) = hi := by
  have := lo.isLt
  apply BitVec.eq_of_toNat_eq; rw [highByte_toNat, word_toNat]; omega

@[simp] theorem word_high_low (v : Word) : word (highByte v) (lowByte v) = v := by
  apply BitVec.eq_of_toNat_eq; rw [word_toNat, highByte_toNat, lowByte_toNat]; omega

theorem word_inj {hi lo hi' lo' : Byte} : word hi lo = word hi' lo' ↔ hi = hi' ∧ lo = lo' :=
  ⟨fun h => ⟨by simpa using congrArg highByte h, by simpa using congrArg lowByte h⟩, fun h => by rw [h.1, h.2]⟩

end Sys2Proof.Machine
end

