-- ==== Sys2Proof/Laws/Decode.lean ====
section
/-! SUPPORT. What the chart and the decoder hold, said once. -/

namespace Sys2Proof

open Machine

/-- The shape gives this instruction, with exactly the operand bytes of its encoding. -/
def Shape.Makes (sh : Shape) (i : Instr) : Prop :=
  match sh with
  | .one j => j = i ∧ i.form.bytes = []
  | .two f => ∃ n, f n = i ∧ i.form.bytes = [n]
  | .three f => ∃ nn, f nn = i ∧ i.form.bytes = wordBytes nn

theorem shapeOf_opcode (i : Instr) : ∃ sh, shapeOf i.opcode = some sh ∧ sh.Makes i := by
  cases i <;> simp only [Instr.opcode] <;> refine ⟨_, rfl, ?_⟩ <;> first
    | exact ⟨rfl, rfl⟩
    | exact ⟨_, rfl, rfl⟩

/-- The opcode and every instruction of a row of the chart belong together. -/
def Shape.Fits (opcode : Byte) : Shape → Prop
  | .one i => encode i = [opcode]
  | .two f => ∀ n, encode (f n) = [opcode, n]
  | .three f => ∀ nn, encode (f nn) = opcode :: wordBytes nn

theorem shapeOf_fits {opcode : Byte} {sh : Shape} (h : shapeOf opcode = some sh) : sh.Fits opcode := by
  have rows : ∀ k < 16, ∀ r ∈ chartRow k, r.2.Fits r.1 := by
    intro k hk
    interval_cases k
    all_goals
      simp only [chartRow, chartRow0, chartRow1, chartRow2, chartRow3, chartRow4, chartRow5, chartRow6, chartRow7,
        chartRow8, chartRow9, chartRowA, chartRowB, chartRowC, chartRowD, chartRowE, chartRowF, List.forall_mem_cons,
        List.not_mem_nil, false_imp_iff, implies_true, and_true]
      repeat' apply And.intro
      all_goals first | rfl | (intro _; rfl)
  unfold shapeOf at h
  obtain ⟨r, hr, rfl⟩ := Option.map_eq_some_iff.mp h
  have h1 := List.find?_some hr
  obtain rfl : r.1 = opcode := by simpa using h1
  exact rows _ (by have := r.1.isLt; omega) r (List.mem_of_find?_eq_some hr)

end Sys2Proof
end

