-- ==== Sys2Proof/Laws/Memory.lean ====
section
/-! SUPPORT. Memory: a read after a write, the canonical form, and that canonical memories with the same bytes are equal. -/

namespace Sys2Proof.Machine

@[simp] theorem memory_read_nil (a : Nat) : Memory.read [] a = Memory.unlisted := rfl

theorem memory_read_entry (k : Nat) (v : Byte) (m : Memory) (a : Nat) :
    Memory.read ((k, v) :: m) a = if k = a then v else Memory.read m a := rfl

/-- Every listed address is above `a`. -/
abbrev Memory.Above (a : Nat) (m : Memory) : Prop := ∀ c ∈ m, a < c.1

theorem memory_read_of_above {a b : Nat} {m : Memory} (h : Memory.Above a m) (hb : b ≤ a) :
    Memory.read m b = Memory.unlisted := by
  induction m with
  | nil => rfl
  | cons c m ih =>
    have hc := h c (by simp)
    rw [show c = (c.1, c.2) from rfl, memory_read_entry, if_neg (by omega)]
    exact ih fun e he => h e (by simp [he])

theorem memory_wf_entry {k : Nat} {v : Byte} {m : Memory} :
    Memory.wf ((k, v) :: m) ↔ Memory.Above k m ∧ k < 65536 ∧ v ≠ Memory.unlisted ∧ Memory.wf m := by
  simp only [Memory.wf, Memory.Above, List.pairwise_cons, List.mem_cons, forall_eq_or_imp]
  tauto

theorem memory_wf_nil : Memory.wf [] := by simp [Memory.wf]

/-- No entry of the cell is listed. -/
abbrev Memory.Free (a : Nat) (m : Memory) : Prop := ∀ c ∈ m, c.1 ≠ a

theorem memory_free_erase (m : Memory) (a : Nat) : Memory.Free a (m.erase a) := by
  intro c hc
  simpa using (List.mem_filter.mp hc).2

theorem memory_read_erase (m : Memory) (a b : Nat) :
    (m.erase a).read b = if a = b then Memory.unlisted else m.read b := by
  induction m with
  | nil => simp [Memory.erase]
  | cons c m ih =>
    obtain ⟨k, w⟩ := c
    unfold Memory.erase at ih ⊢
    by_cases hk : k = a
    · subst hk
      simp only [List.filter_cons, bne_self_eq_false, Bool.false_eq_true, if_false, ih, memory_read_entry]
      split <;> simp_all
    · simp only [List.filter_cons, bne_iff_ne, ne_eq, hk, not_false_eq_true, if_true, memory_read_entry, ih]
      by_cases hb : k = b
      · simp [hb, show a ≠ b by omega]
      · simp [hb]

theorem memory_read_insert {m : Memory} {a : Nat} (h : Memory.Free a m) (v : Byte) (b : Nat) :
    (m.insert a v).read b = if a = b then v else m.read b := by
  induction m with
  | nil => rfl
  | cons c m ih =>
    obtain ⟨k, w⟩ := c
    have hk : k ≠ a := h (k, w) (by simp)
    unfold Memory.insert
    split
    · rfl
    · rw [memory_read_entry, memory_read_entry, ih fun e he => h e (by simp [he])]
      by_cases hb : k = b
      · simp [hb, show a ≠ b by omega]
      · simp [hb]

/-- A read after a write: the written cell holds the byte, every other cell is as before. -/
theorem memory_read_write (m : Memory) (a : Nat) (v : Byte) (b : Nat) :
    (m.write a v).read b = if a = b then v else m.read b := by
  unfold Memory.write
  split
  · next h => rw [memory_read_erase, h]
  · rw [memory_read_insert (memory_free_erase m a), memory_read_erase]
    split <;> rfl

theorem memory_read_write_same (m : Memory) (a : Nat) (v : Byte) : (m.write a v).read a = v := by
  rw [memory_read_write, if_pos rfl]

theorem memory_read_write_other (m : Memory) {a b : Nat} (v : Byte) (h : a ≠ b) : (m.write a v).read b = m.read b := by
  rw [memory_read_write, if_neg h]

theorem memory_wf_erase {m : Memory} (h : m.wf) (a : Nat) : (m.erase a).wf :=
  ⟨h.1.filter _, fun c hc => h.2 c (List.mem_of_mem_filter hc)⟩

theorem memory_above_insert {m : Memory} {k a : Nat} (h : Memory.Above k m) (ha : k < a) (v : Byte) :
    Memory.Above k (m.insert a v) := by
  induction m with
  | nil => simpa [Memory.insert, Memory.Above] using ha
  | cons c m ih =>
    obtain ⟨j, w⟩ := c
    have hm : Memory.Above k m := fun e he => h e (by simp [he])
    unfold Memory.insert
    split <;> intro e he <;> rcases List.mem_cons.mp he with rfl | he
    · exact ha
    · exact h e he
    · exact h (j, w) (by simp)
    · exact ih hm e he

theorem memory_wf_insert {m : Memory} (h : m.wf) {a : Nat} (hf : Memory.Free a m) (ha : a < 65536) {v : Byte}
    (hv : v ≠ Memory.unlisted) : (m.insert a v).wf := by
  induction m with
  | nil => simpa [Memory.insert, memory_wf_entry, Memory.Above, ha, hv] using h
  | cons c m ih =>
    obtain ⟨k, w⟩ := c
    obtain ⟨habove, hk, hw, hm⟩ := memory_wf_entry.mp h
    have hka : k ≠ a := hf (k, w) (by simp)
    unfold Memory.insert
    split
    · next hlt =>
      refine memory_wf_entry.mpr ⟨fun e he => ?_, ha, hv, h⟩
      rcases List.mem_cons.mp he with rfl | he
      · exact hlt
      · exact Nat.lt_trans hlt (habove e he)
    · next hlt =>
      exact memory_wf_entry.mpr ⟨memory_above_insert habove (by omega) v, hk, hw,
        ih hm fun e he => hf e (by simp [he])⟩

/-- A write keeps the canonical form. -/
theorem memory_wf_write {m : Memory} (h : m.wf) {a : Nat} (ha : a < 65536) (v : Byte) : (m.write a v).wf := by
  unfold Memory.write
  split
  · exact memory_wf_erase h a
  · next hv => exact memory_wf_insert (memory_wf_erase h a) (memory_free_erase m a) ha hv

/-- Canonical memories that read alike are the same data. -/
theorem memory_ext {m m' : Memory} (hm : Memory.wf m) (hm' : Memory.wf m')
    (h : ∀ a, Memory.read m a = Memory.read m' a) : m = m' := by
  induction m generalizing m' with
  | nil =>
    cases m' with
    | nil => rfl
    | cons c m' =>
      obtain ⟨k, w⟩ := c
      have := h k
      rw [memory_read_nil, memory_read_entry, if_pos rfl] at this
      exact absurd this.symm (memory_wf_entry.mp hm').2.2.1
  | cons c m ih =>
    obtain ⟨k, w⟩ := c
    obtain ⟨habove, hk, hw, hmm⟩ := memory_wf_entry.mp hm
    cases m' with
    | nil =>
      have := h k
      rw [memory_read_nil, memory_read_entry, if_pos rfl] at this
      exact absurd this hw
    | cons c' m' =>
      obtain ⟨k', w'⟩ := c'
      obtain ⟨habove', hk', hw', hmm'⟩ := memory_wf_entry.mp hm'
      have hkk : k = k' := by
        rcases Nat.lt_trichotomy k k' with hlt | heq | hgt
        · have := h k
          rw [memory_read_entry, if_pos rfl, memory_read_entry, if_neg (by omega),
            memory_read_of_above habove' (by omega)] at this
          exact absurd this hw
        · exact heq
        · have := h k'
          rw [memory_read_entry, if_neg (by omega), memory_read_of_above habove (by omega), memory_read_entry,
            if_pos rfl] at this
          exact absurd this.symm hw'
      subst hkk
      have hww : w = w' := by have := h k; simpa [memory_read_entry] using this
      subst hww
      congr 1
      refine ih hmm hmm' fun a => ?_
      by_cases ha : k = a
      · subst ha
        rw [memory_read_of_above habove (by omega), memory_read_of_above habove' (by omega)]
      · have := h a
        rwa [memory_read_entry, memory_read_entry, if_neg ha, if_neg ha] at this

end Sys2Proof.Machine
end

