-- ==== Sys2Proof/Laws/State.lean ====
section
/-! SUPPORT. What each named update of the state leaves in each field, in each flag, and at each address. -/

namespace Sys2Proof.Machine

section Updates

variable (s : State)

@[simp] theorem setA_a (v : Byte) : (s.setA v).a = v := rfl
@[simp] theorem setA_x (v : Byte) : (s.setA v).x = s.x := rfl
@[simp] theorem setA_y (v : Byte) : (s.setA v).y = s.y := rfl
@[simp] theorem setA_sp (v : Byte) : (s.setA v).sp = s.sp := rfl
@[simp] theorem setA_pc (v : Byte) : (s.setA v).pc = s.pc := rfl
@[simp] theorem setA_p (v : Byte) : (s.setA v).p = s.p := rfl
@[simp] theorem setA_nmiPrev (v : Byte) : (s.setA v).nmiPrev = s.nmiPrev := rfl
@[simp] theorem setA_nmiPending (v : Byte) : (s.setA v).nmiPending = s.nmiPending := rfl
@[simp] theorem setA_iPoll (v : Byte) : (s.setA v).iPoll = s.iPoll := rfl
@[simp] theorem setA_mem (v : Byte) : (s.setA v).mem = s.mem := rfl
@[simp] theorem setA_events (v : Byte) : (s.setA v).events = s.events := rfl
@[simp] theorem setA_inputs (v : Byte) : (s.setA v).inputs = s.inputs := rfl
@[simp] theorem setA_environment (v : Byte) : (s.setA v).environment = s.environment := rfl
@[simp] theorem setA_time (v : Byte) : (s.setA v).time = s.time := rfl
@[simp] theorem setA_draws (v : Byte) : (s.setA v).draws = s.draws := rfl
@[simp] theorem setA_cfg (v : Byte) : (s.setA v).cfg = s.cfg := rfl
@[simp] theorem setA_cell (v : Byte) (b : Word) : (s.setA v).cell b = s.cell b := rfl
@[simp] theorem setA_kindAt (v : Byte) (b : Word) : (s.setA v).kindAt b = s.kindAt b := rfl
@[simp] theorem setA_byteAt (v : Byte) (b : Word) : (s.setA v).byteAt b = s.byteAt b := rfl

@[simp] theorem setX_a (v : Byte) : (s.setX v).a = s.a := rfl
@[simp] theorem setX_x (v : Byte) : (s.setX v).x = v := rfl
@[simp] theorem setX_y (v : Byte) : (s.setX v).y = s.y := rfl
@[simp] theorem setX_sp (v : Byte) : (s.setX v).sp = s.sp := rfl
@[simp] theorem setX_pc (v : Byte) : (s.setX v).pc = s.pc := rfl
@[simp] theorem setX_p (v : Byte) : (s.setX v).p = s.p := rfl
@[simp] theorem setX_nmiPrev (v : Byte) : (s.setX v).nmiPrev = s.nmiPrev := rfl
@[simp] theorem setX_nmiPending (v : Byte) : (s.setX v).nmiPending = s.nmiPending := rfl
@[simp] theorem setX_iPoll (v : Byte) : (s.setX v).iPoll = s.iPoll := rfl
@[simp] theorem setX_mem (v : Byte) : (s.setX v).mem = s.mem := rfl
@[simp] theorem setX_events (v : Byte) : (s.setX v).events = s.events := rfl
@[simp] theorem setX_inputs (v : Byte) : (s.setX v).inputs = s.inputs := rfl
@[simp] theorem setX_environment (v : Byte) : (s.setX v).environment = s.environment := rfl
@[simp] theorem setX_time (v : Byte) : (s.setX v).time = s.time := rfl
@[simp] theorem setX_draws (v : Byte) : (s.setX v).draws = s.draws := rfl
@[simp] theorem setX_cfg (v : Byte) : (s.setX v).cfg = s.cfg := rfl
@[simp] theorem setX_cell (v : Byte) (b : Word) : (s.setX v).cell b = s.cell b := rfl
@[simp] theorem setX_kindAt (v : Byte) (b : Word) : (s.setX v).kindAt b = s.kindAt b := rfl
@[simp] theorem setX_byteAt (v : Byte) (b : Word) : (s.setX v).byteAt b = s.byteAt b := rfl

@[simp] theorem setY_a (v : Byte) : (s.setY v).a = s.a := rfl
@[simp] theorem setY_x (v : Byte) : (s.setY v).x = s.x := rfl
@[simp] theorem setY_y (v : Byte) : (s.setY v).y = v := rfl
@[simp] theorem setY_sp (v : Byte) : (s.setY v).sp = s.sp := rfl
@[simp] theorem setY_pc (v : Byte) : (s.setY v).pc = s.pc := rfl
@[simp] theorem setY_p (v : Byte) : (s.setY v).p = s.p := rfl
@[simp] theorem setY_nmiPrev (v : Byte) : (s.setY v).nmiPrev = s.nmiPrev := rfl
@[simp] theorem setY_nmiPending (v : Byte) : (s.setY v).nmiPending = s.nmiPending := rfl
@[simp] theorem setY_iPoll (v : Byte) : (s.setY v).iPoll = s.iPoll := rfl
@[simp] theorem setY_mem (v : Byte) : (s.setY v).mem = s.mem := rfl
@[simp] theorem setY_events (v : Byte) : (s.setY v).events = s.events := rfl
@[simp] theorem setY_inputs (v : Byte) : (s.setY v).inputs = s.inputs := rfl
@[simp] theorem setY_environment (v : Byte) : (s.setY v).environment = s.environment := rfl
@[simp] theorem setY_time (v : Byte) : (s.setY v).time = s.time := rfl
@[simp] theorem setY_draws (v : Byte) : (s.setY v).draws = s.draws := rfl
@[simp] theorem setY_cfg (v : Byte) : (s.setY v).cfg = s.cfg := rfl
@[simp] theorem setY_cell (v : Byte) (b : Word) : (s.setY v).cell b = s.cell b := rfl
@[simp] theorem setY_kindAt (v : Byte) (b : Word) : (s.setY v).kindAt b = s.kindAt b := rfl
@[simp] theorem setY_byteAt (v : Byte) (b : Word) : (s.setY v).byteAt b = s.byteAt b := rfl

@[simp] theorem setSp_a (v : Byte) : (s.setSp v).a = s.a := rfl
@[simp] theorem setSp_x (v : Byte) : (s.setSp v).x = s.x := rfl
@[simp] theorem setSp_y (v : Byte) : (s.setSp v).y = s.y := rfl
@[simp] theorem setSp_sp (v : Byte) : (s.setSp v).sp = v := rfl
@[simp] theorem setSp_pc (v : Byte) : (s.setSp v).pc = s.pc := rfl
@[simp] theorem setSp_p (v : Byte) : (s.setSp v).p = s.p := rfl
@[simp] theorem setSp_nmiPrev (v : Byte) : (s.setSp v).nmiPrev = s.nmiPrev := rfl
@[simp] theorem setSp_nmiPending (v : Byte) : (s.setSp v).nmiPending = s.nmiPending := rfl
@[simp] theorem setSp_iPoll (v : Byte) : (s.setSp v).iPoll = s.iPoll := rfl
@[simp] theorem setSp_mem (v : Byte) : (s.setSp v).mem = s.mem := rfl
@[simp] theorem setSp_events (v : Byte) : (s.setSp v).events = s.events := rfl
@[simp] theorem setSp_inputs (v : Byte) : (s.setSp v).inputs = s.inputs := rfl
@[simp] theorem setSp_environment (v : Byte) : (s.setSp v).environment = s.environment := rfl
@[simp] theorem setSp_time (v : Byte) : (s.setSp v).time = s.time := rfl
@[simp] theorem setSp_draws (v : Byte) : (s.setSp v).draws = s.draws := rfl
@[simp] theorem setSp_cfg (v : Byte) : (s.setSp v).cfg = s.cfg := rfl
@[simp] theorem setSp_cell (v : Byte) (b : Word) : (s.setSp v).cell b = s.cell b := rfl
@[simp] theorem setSp_kindAt (v : Byte) (b : Word) : (s.setSp v).kindAt b = s.kindAt b := rfl
@[simp] theorem setSp_byteAt (v : Byte) (b : Word) : (s.setSp v).byteAt b = s.byteAt b := rfl

@[simp] theorem setP_a (q : Flags) : (s.setP q).a = s.a := rfl
@[simp] theorem setP_x (q : Flags) : (s.setP q).x = s.x := rfl
@[simp] theorem setP_y (q : Flags) : (s.setP q).y = s.y := rfl
@[simp] theorem setP_sp (q : Flags) : (s.setP q).sp = s.sp := rfl
@[simp] theorem setP_pc (q : Flags) : (s.setP q).pc = s.pc := rfl
@[simp] theorem setP_p (q : Flags) : (s.setP q).p = q := rfl
@[simp] theorem setP_nmiPrev (q : Flags) : (s.setP q).nmiPrev = s.nmiPrev := rfl
@[simp] theorem setP_nmiPending (q : Flags) : (s.setP q).nmiPending = s.nmiPending := rfl
@[simp] theorem setP_iPoll (q : Flags) : (s.setP q).iPoll = s.iPoll := rfl
@[simp] theorem setP_mem (q : Flags) : (s.setP q).mem = s.mem := rfl
@[simp] theorem setP_events (q : Flags) : (s.setP q).events = s.events := rfl
@[simp] theorem setP_inputs (q : Flags) : (s.setP q).inputs = s.inputs := rfl
@[simp] theorem setP_environment (q : Flags) : (s.setP q).environment = s.environment := rfl
@[simp] theorem setP_time (q : Flags) : (s.setP q).time = s.time := rfl
@[simp] theorem setP_draws (q : Flags) : (s.setP q).draws = s.draws := rfl
@[simp] theorem setP_cfg (q : Flags) : (s.setP q).cfg = s.cfg := rfl
@[simp] theorem setP_cell (q : Flags) (b : Word) : (s.setP q).cell b = s.cell b := rfl
@[simp] theorem setP_kindAt (q : Flags) (b : Word) : (s.setP q).kindAt b = s.kindAt b := rfl
@[simp] theorem setP_byteAt (q : Flags) (b : Word) : (s.setP q).byteAt b = s.byteAt b := rfl

@[simp] theorem setNZ_a (r : Byte) : (s.setNZ r).a = s.a := rfl
@[simp] theorem setNZ_x (r : Byte) : (s.setNZ r).x = s.x := rfl
@[simp] theorem setNZ_y (r : Byte) : (s.setNZ r).y = s.y := rfl
@[simp] theorem setNZ_sp (r : Byte) : (s.setNZ r).sp = s.sp := rfl
@[simp] theorem setNZ_pc (r : Byte) : (s.setNZ r).pc = s.pc := rfl
@[simp] theorem setNZ_p (r : Byte) : (s.setNZ r).p = s.p.withNZ r := rfl
@[simp] theorem setNZ_nmiPrev (r : Byte) : (s.setNZ r).nmiPrev = s.nmiPrev := rfl
@[simp] theorem setNZ_nmiPending (r : Byte) : (s.setNZ r).nmiPending = s.nmiPending := rfl
@[simp] theorem setNZ_iPoll (r : Byte) : (s.setNZ r).iPoll = s.iPoll := rfl
@[simp] theorem setNZ_mem (r : Byte) : (s.setNZ r).mem = s.mem := rfl
@[simp] theorem setNZ_events (r : Byte) : (s.setNZ r).events = s.events := rfl
@[simp] theorem setNZ_inputs (r : Byte) : (s.setNZ r).inputs = s.inputs := rfl
@[simp] theorem setNZ_environment (r : Byte) : (s.setNZ r).environment = s.environment := rfl
@[simp] theorem setNZ_time (r : Byte) : (s.setNZ r).time = s.time := rfl
@[simp] theorem setNZ_draws (r : Byte) : (s.setNZ r).draws = s.draws := rfl
@[simp] theorem setNZ_cfg (r : Byte) : (s.setNZ r).cfg = s.cfg := rfl
@[simp] theorem setNZ_cell (r : Byte) (b : Word) : (s.setNZ r).cell b = s.cell b := rfl
@[simp] theorem setNZ_kindAt (r : Byte) (b : Word) : (s.setNZ r).kindAt b = s.kindAt b := rfl
@[simp] theorem setNZ_byteAt (r : Byte) (b : Word) : (s.setNZ r).byteAt b = s.byteAt b := rfl

@[simp] theorem advance_a (n : Nat) : (s.advance n).a = s.a := rfl
@[simp] theorem advance_x (n : Nat) : (s.advance n).x = s.x := rfl
@[simp] theorem advance_y (n : Nat) : (s.advance n).y = s.y := rfl
@[simp] theorem advance_sp (n : Nat) : (s.advance n).sp = s.sp := rfl
@[simp] theorem advance_pc (n : Nat) : (s.advance n).pc = s.pc + BitVec.ofNat 16 n := rfl
@[simp] theorem advance_p (n : Nat) : (s.advance n).p = s.p := rfl
@[simp] theorem advance_nmiPrev (n : Nat) : (s.advance n).nmiPrev = s.nmiPrev := rfl
@[simp] theorem advance_nmiPending (n : Nat) : (s.advance n).nmiPending = s.nmiPending := rfl
@[simp] theorem advance_iPoll (n : Nat) : (s.advance n).iPoll = s.p.i := rfl
@[simp] theorem advance_mem (n : Nat) : (s.advance n).mem = s.mem := rfl
@[simp] theorem advance_events (n : Nat) : (s.advance n).events = s.events := rfl
@[simp] theorem advance_inputs (n : Nat) : (s.advance n).inputs = s.inputs := rfl
@[simp] theorem advance_environment (n : Nat) : (s.advance n).environment = s.environment := rfl
@[simp] theorem advance_time (n : Nat) : (s.advance n).time = s.time := rfl
@[simp] theorem advance_draws (n : Nat) : (s.advance n).draws = s.draws := rfl
@[simp] theorem advance_cfg (n : Nat) : (s.advance n).cfg = s.cfg := rfl
@[simp] theorem advance_cell (n : Nat) (b : Word) : (s.advance n).cell b = s.cell b := rfl
@[simp] theorem advance_kindAt (n : Nat) (b : Word) : (s.advance n).kindAt b = s.kindAt b := rfl
@[simp] theorem advance_byteAt (n : Nat) (b : Word) : (s.advance n).byteAt b = s.byteAt b := rfl

@[simp] theorem jump_a (t : Word) : (s.jump t).a = s.a := rfl
@[simp] theorem jump_x (t : Word) : (s.jump t).x = s.x := rfl
@[simp] theorem jump_y (t : Word) : (s.jump t).y = s.y := rfl
@[simp] theorem jump_sp (t : Word) : (s.jump t).sp = s.sp := rfl
@[simp] theorem jump_pc (t : Word) : (s.jump t).pc = t := rfl
@[simp] theorem jump_p (t : Word) : (s.jump t).p = s.p := rfl
@[simp] theorem jump_nmiPrev (t : Word) : (s.jump t).nmiPrev = s.nmiPrev := rfl
@[simp] theorem jump_nmiPending (t : Word) : (s.jump t).nmiPending = s.nmiPending := rfl
@[simp] theorem jump_iPoll (t : Word) : (s.jump t).iPoll = s.p.i := rfl
@[simp] theorem jump_mem (t : Word) : (s.jump t).mem = s.mem := rfl
@[simp] theorem jump_events (t : Word) : (s.jump t).events = s.events := rfl
@[simp] theorem jump_inputs (t : Word) : (s.jump t).inputs = s.inputs := rfl
@[simp] theorem jump_environment (t : Word) : (s.jump t).environment = s.environment := rfl
@[simp] theorem jump_time (t : Word) : (s.jump t).time = s.time := rfl
@[simp] theorem jump_draws (t : Word) : (s.jump t).draws = s.draws := rfl
@[simp] theorem jump_cfg (t : Word) : (s.jump t).cfg = s.cfg := rfl
@[simp] theorem jump_cell (t : Word) (b : Word) : (s.jump t).cell b = s.cell b := rfl
@[simp] theorem jump_kindAt (t : Word) (b : Word) : (s.jump t).kindAt b = s.kindAt b := rfl
@[simp] theorem jump_byteAt (t : Word) (b : Word) : (s.jump t).byteAt b = s.byteAt b := rfl

@[simp] theorem advanceLagged_a (w : Bool) : (s.advanceLagged w).a = s.a := rfl
@[simp] theorem advanceLagged_x (w : Bool) : (s.advanceLagged w).x = s.x := rfl
@[simp] theorem advanceLagged_y (w : Bool) : (s.advanceLagged w).y = s.y := rfl
@[simp] theorem advanceLagged_sp (w : Bool) : (s.advanceLagged w).sp = s.sp := rfl
@[simp] theorem advanceLagged_pc (w : Bool) : (s.advanceLagged w).pc = s.pc + 1#16 := rfl
@[simp] theorem advanceLagged_p (w : Bool) : (s.advanceLagged w).p = s.p := rfl
@[simp] theorem advanceLagged_nmiPrev (w : Bool) : (s.advanceLagged w).nmiPrev = s.nmiPrev := rfl
@[simp] theorem advanceLagged_nmiPending (w : Bool) : (s.advanceLagged w).nmiPending = s.nmiPending := rfl
@[simp] theorem advanceLagged_iPoll (w : Bool) : (s.advanceLagged w).iPoll = w := rfl
@[simp] theorem advanceLagged_mem (w : Bool) : (s.advanceLagged w).mem = s.mem := rfl
@[simp] theorem advanceLagged_events (w : Bool) : (s.advanceLagged w).events = s.events := rfl
@[simp] theorem advanceLagged_inputs (w : Bool) : (s.advanceLagged w).inputs = s.inputs := rfl
@[simp] theorem advanceLagged_environment (w : Bool) : (s.advanceLagged w).environment = s.environment := rfl
@[simp] theorem advanceLagged_time (w : Bool) : (s.advanceLagged w).time = s.time := rfl
@[simp] theorem advanceLagged_draws (w : Bool) : (s.advanceLagged w).draws = s.draws := rfl
@[simp] theorem advanceLagged_cfg (w : Bool) : (s.advanceLagged w).cfg = s.cfg := rfl
@[simp] theorem advanceLagged_cell (w : Bool) (b : Word) : (s.advanceLagged w).cell b = s.cell b := rfl
@[simp] theorem advanceLagged_kindAt (w : Bool) (b : Word) : (s.advanceLagged w).kindAt b = s.kindAt b := rfl
@[simp] theorem advanceLagged_byteAt (w : Bool) (b : Word) : (s.advanceLagged w).byteAt b = s.byteAt b := rfl

@[simp] theorem storeCell_a (a : Word) (v : Byte) : (s.storeCell a v).a = s.a := rfl
@[simp] theorem storeCell_x (a : Word) (v : Byte) : (s.storeCell a v).x = s.x := rfl
@[simp] theorem storeCell_y (a : Word) (v : Byte) : (s.storeCell a v).y = s.y := rfl
@[simp] theorem storeCell_sp (a : Word) (v : Byte) : (s.storeCell a v).sp = s.sp := rfl
@[simp] theorem storeCell_pc (a : Word) (v : Byte) : (s.storeCell a v).pc = s.pc := rfl
@[simp] theorem storeCell_p (a : Word) (v : Byte) : (s.storeCell a v).p = s.p := rfl
@[simp] theorem storeCell_nmiPrev (a : Word) (v : Byte) : (s.storeCell a v).nmiPrev = s.nmiPrev := rfl
@[simp] theorem storeCell_nmiPending (a : Word) (v : Byte) : (s.storeCell a v).nmiPending = s.nmiPending := rfl
@[simp] theorem storeCell_iPoll (a : Word) (v : Byte) : (s.storeCell a v).iPoll = s.iPoll := rfl
@[simp] theorem storeCell_mem (a : Word) (v : Byte) : (s.storeCell a v).mem = s.mem.write (s.cell a).toNat v := rfl
@[simp] theorem storeCell_events (a : Word) (v : Byte) : (s.storeCell a v).events = s.events := rfl
@[simp] theorem storeCell_inputs (a : Word) (v : Byte) : (s.storeCell a v).inputs = s.inputs := rfl
@[simp] theorem storeCell_environment (a : Word) (v : Byte) : (s.storeCell a v).environment = s.environment := rfl
@[simp] theorem storeCell_time (a : Word) (v : Byte) : (s.storeCell a v).time = s.time := rfl
@[simp] theorem storeCell_draws (a : Word) (v : Byte) : (s.storeCell a v).draws = s.draws := rfl
@[simp] theorem storeCell_cfg (a : Word) (v : Byte) : (s.storeCell a v).cfg = s.cfg := rfl
@[simp] theorem storeCell_cell (a : Word) (v : Byte) (b : Word) : (s.storeCell a v).cell b = s.cell b := rfl
@[simp] theorem storeCell_kindAt (a : Word) (v : Byte) (b : Word) : (s.storeCell a v).kindAt b = s.kindAt b := rfl

@[simp] theorem record_a (e : DeviceEvent) : (s.record e).a = s.a := rfl
@[simp] theorem record_x (e : DeviceEvent) : (s.record e).x = s.x := rfl
@[simp] theorem record_y (e : DeviceEvent) : (s.record e).y = s.y := rfl
@[simp] theorem record_sp (e : DeviceEvent) : (s.record e).sp = s.sp := rfl
@[simp] theorem record_pc (e : DeviceEvent) : (s.record e).pc = s.pc := rfl
@[simp] theorem record_p (e : DeviceEvent) : (s.record e).p = s.p := rfl
@[simp] theorem record_nmiPrev (e : DeviceEvent) : (s.record e).nmiPrev = s.nmiPrev := rfl
@[simp] theorem record_nmiPending (e : DeviceEvent) : (s.record e).nmiPending = s.nmiPending := rfl
@[simp] theorem record_iPoll (e : DeviceEvent) : (s.record e).iPoll = s.iPoll := rfl
@[simp] theorem record_mem (e : DeviceEvent) : (s.record e).mem = s.mem := rfl
@[simp] theorem record_events (e : DeviceEvent) : (s.record e).events = e :: s.events := rfl
@[simp] theorem record_inputs (e : DeviceEvent) : (s.record e).inputs = s.inputs := rfl
@[simp] theorem record_environment (e : DeviceEvent) : (s.record e).environment = s.environment := rfl
@[simp] theorem record_time (e : DeviceEvent) : (s.record e).time = s.time := rfl
@[simp] theorem record_draws (e : DeviceEvent) : (s.record e).draws = s.draws := rfl
@[simp] theorem record_cfg (e : DeviceEvent) : (s.record e).cfg = s.cfg := rfl
@[simp] theorem record_cell (e : DeviceEvent) (b : Word) : (s.record e).cell b = s.cell b := rfl
@[simp] theorem record_kindAt (e : DeviceEvent) (b : Word) : (s.record e).kindAt b = s.kindAt b := rfl
@[simp] theorem record_byteAt (e : DeviceEvent) (b : Word) : (s.record e).byteAt b = s.byteAt b := rfl

end Updates

section FlagUpdates

variable (p : Flags) (r : Byte)

@[simp] theorem withNZ_n : (p.withNZ r).n = r.msb := rfl
@[simp] theorem withNZ_v : (p.withNZ r).v = p.v := rfl
@[simp] theorem withNZ_d : (p.withNZ r).d = p.d := rfl
@[simp] theorem withNZ_i : (p.withNZ r).i = p.i := rfl
@[simp] theorem withNZ_z : (p.withNZ r).z = (r == 0#8) := rfl
@[simp] theorem withNZ_c : (p.withNZ r).c = p.c := rfl

end FlagUpdates

end Sys2Proof.Machine
end

