-- ==== Sys2Proof/Laws/Ops.lean ====
section
/-! SUPPORT. What each shared operation can do, said once: what its next state is when it has one, and when it has one. -/

namespace Sys2Proof.Machine

/-! ### Going on after an operation -/

section Bind

variable {α β : Type} (f : α → Host.Outcome β Fault Refusal)

@[simp] theorem bindNext_next (v : α) : bindNext (.next v) f = f v := rfl
@[simp] theorem bindNext_fault (e : Fault) : bindNext (.fault e) f = .fault e := rfl
@[simp] theorem bindNext_refused (e : Refusal) : bindNext (.refused e) f = .refused e := rfl

theorem bindNext_eq_next {r : Host.Outcome α Fault Refusal} {f : α → Host.Outcome β Fault Refusal} {w : β} :
    bindNext r f = .next w ↔ ∃ v, r = .next v ∧ f v = .next w := by
  cases r <;> simp [bindNext]

theorem bindNext_eq_fault {r : Host.Outcome α Fault Refusal} {f : α → Host.Outcome β Fault Refusal} {e : Fault} :
    bindNext r f = .fault e ↔ r = .fault e ∨ ∃ v, r = .next v ∧ f v = .fault e := by
  cases r <;> simp [bindNext]

theorem bindNext_eq_refused {r : Host.Outcome α Fault Refusal} {f : α → Host.Outcome β Fault Refusal} {e : Refusal} :
    bindNext r f = .refused e ↔ r = .refused e ∨ ∃ v, r = .next v ∧ f v = .refused e := by
  cases r <;> simp [bindNext]

end Bind

/-! ### The platform -/

/-- An alias is idempotent where no target range meets an alias range. -/
theorem aliasIdempotent_of {p : Platform}
    (h : ∀ r ∈ p.aliases, ∀ c, r.target ≤ c → c < r.target + r.size → p.aliasOf (BitVec.ofNat 16 c) = none) :
    p.AliasIdempotent := by
  intro a
  unfold Platform.canon
  cases ha : p.aliasOf a with
  | none => simp [ha]
  | some r =>
    have hr := List.find?_some ha
    simp only [Bool.and_eq_true, decide_eq_true_eq] at hr
    simp only [h r (List.mem_of_find?_eq_some ha) (r.target + (a.toNat - r.base)) (Nat.le_add_right _ _) (by omega)]

/-! ### Reads -/

/-- From `s` to `t` only accesses were made: the history may have grown, by events at device cells, and free values may
have been drawn. -/
structure BusStep (s t : State) : Prop where
  same : t = { s with events := t.events, draws := t.draws }
  history : ∃ l, t.events = l ++ s.events ∧ ∀ e ∈ l, ∃ b, s.cfg.platform.kindOf e.cell = .device b
  draws : s.draws ≤ t.draws

namespace BusStep

variable {s t u : State}

theorem refl (s : State) : BusStep s s := ⟨rfl, ⟨[], rfl, by simp⟩, le_rfl⟩

theorem a_eq (h : BusStep s t) : t.a = s.a := by rw [h.same]
theorem x_eq (h : BusStep s t) : t.x = s.x := by rw [h.same]
theorem y_eq (h : BusStep s t) : t.y = s.y := by rw [h.same]
theorem sp_eq (h : BusStep s t) : t.sp = s.sp := by rw [h.same]
theorem pc_eq (h : BusStep s t) : t.pc = s.pc := by rw [h.same]
theorem p_eq (h : BusStep s t) : t.p = s.p := by rw [h.same]
theorem nmiPrev_eq (h : BusStep s t) : t.nmiPrev = s.nmiPrev := by rw [h.same]
theorem nmiPending_eq (h : BusStep s t) : t.nmiPending = s.nmiPending := by rw [h.same]
theorem iPoll_eq (h : BusStep s t) : t.iPoll = s.iPoll := by rw [h.same]
theorem mem_eq (h : BusStep s t) : t.mem = s.mem := by rw [h.same]
theorem inputs_eq (h : BusStep s t) : t.inputs = s.inputs := by rw [h.same]
theorem environment_eq (h : BusStep s t) : t.environment = s.environment := by rw [h.same]
theorem time_eq (h : BusStep s t) : t.time = s.time := by rw [h.same]
theorem cfg_eq (h : BusStep s t) : t.cfg = s.cfg := by rw [h.same]
theorem cell_eq (h : BusStep s t) (a : Word) : t.cell a = s.cell a := by rw [h.same]; rfl
theorem kindAt_eq (h : BusStep s t) (a : Word) : t.kindAt a = s.kindAt a := by rw [h.same]; rfl
theorem byteAt_eq (h : BusStep s t) (a : Word) : t.byteAt a = s.byteAt a := by rw [h.same]; rfl

theorem trans (h : BusStep s t) (k : BusStep t u) : BusStep s u := by
  refine ⟨?_, ?_, h.draws.trans k.draws⟩
  · rw [k.same, h.same]
  · obtain ⟨l, hl, hd⟩ := h.history
    obtain ⟨l', hl', hd'⟩ := k.history
    refine ⟨l' ++ l, by rw [hl', hl, List.append_assoc], fun e he => ?_⟩
    rcases List.mem_append.mp he with he | he
    · simpa [h.cfg_eq] using hd' e he
    · exact hd e he

end BusStep

theorem read_memory {s : State} {a : Word} (h : s.IsMemory a) : read a s = .next (s.byteAt a, s) := by
  unfold read
  rcases h with h | h <;> rw [h]

theorem read_device {s : State} {a : Word} {b : Bool} (h : s.kindAt a = .device b) :
    read a s = .next (Config.devRead (.read (s.cell a) :: s.events) (s.cell a), s.record (.read (s.cell a))) := by
  unfold read; rw [h]; rfl

theorem read_drawn {s : State} {a : Word} (h : s.kindAt a = .unpopulated) (hp : s.cfg.platform.onNoneRead = .draw) :
    read a s = .next s.drawByte := by
  unfold read; rw [h, hp]

theorem read_spec {s t : State} {a : Word} {v : Byte} (h : read a s = .next (v, t)) : BusStep s t := by
  unfold read at h
  split at h
  · cases h; exact .refl s
  · cases h; exact .refl s
  · next b hk =>
    cases h
    exact ⟨rfl, ⟨[.read (s.cell a)], rfl, fun e he => by obtain rfl := List.mem_singleton.mp he; exact ⟨b, hk⟩⟩, le_rfl⟩
  · split at h
    · cases h; exact ⟨rfl, ⟨[], rfl, by simp⟩, Nat.le_succ _⟩
    · cases h

theorem read_fault {s : State} {a : Word} {e : Fault} (h : read a s = .fault e) :
    e = .unpopulatedAccess a ∧ s.kindAt a = .unpopulated ∧ s.cfg.platform.onNoneRead = .fault := by
  unfold read at h
  split at h
  · cases h
  · cases h
  · cases h
  · next hk =>
    split at h
    · cases h
    · next hp => cases h; exact ⟨rfl, hk, hp⟩

theorem read_not_refused {s : State} {a : Word} {e : Refusal} : read a s ≠ .refused e := by
  unfold read
  split
  · simp
  · simp
  · simp
  · split <;> simp

/-- A read is answered unless the platform asks for a fault where nothing answers. -/
theorem read_completes {s : State} (a : Word) (h : s.cfg.platform.onNoneRead = .draw) : ∃ v t, read a s = .next (v, t) := by
  unfold read
  split
  · exact ⟨_, _, rfl⟩
  · exact ⟨_, _, rfl⟩
  · exact ⟨_, _, rfl⟩
  · rw [h]; exact ⟨_, _, rfl⟩

theorem read16_memory {s : State} {a : Word} (h : s.IsMemory a) (h' : s.IsMemory (a + 1#16)) :
    read16 a s = .next (word (s.byteAt (a + 1#16)) (s.byteAt a), s) := by
  simp [read16, read_memory h, read_memory h']

theorem read16_spec {s t : State} {a v : Word} (h : read16 a s = .next (v, t)) : BusStep s t := by
  simp only [read16, bindNext_eq_next, Prod.exists] at h
  obtain ⟨lo, s1, h1, hi, s2, h2, h3⟩ := h
  cases h3
  exact (read_spec h1).trans (read_spec h2)

/-! ### Writes -/

theorem storeCell_byteAt_same {s : State} {a b : Word} (h : s.cell b = s.cell a) (v : Byte) :
    (s.storeCell a v).byteAt b = v := by
  rw [State.byteAt, storeCell_cell, h, storeCell_mem]; exact memory_read_write_same _ _ _

theorem storeCell_byteAt_other {s : State} {a b : Word} (h : s.cell b ≠ s.cell a) (v : Byte) :
    (s.storeCell a v).byteAt b = s.byteAt b := by
  rw [State.byteAt, storeCell_cell, storeCell_mem]
  exact memory_read_write_other _ _ fun he => h (BitVec.eq_of_toNat_eq he.symm)

theorem write_ram {s : State} {a : Word} (h : s.IsRam a) (v : Byte) : write a v s = .next (s.storeCell a v) := by
  unfold write; rw [h]

/-- What a write leaves: the state changes in memory and history alone, as `StoredOnly` says. -/
theorem write_spec {s t : State} {a : Word} {v : Byte} (h : write a v s = .next t) :
    t = { s with mem := t.mem, events := t.events } ∧ StoredOnly s a v s.events t ∧ (Memory.wf s.mem → Memory.wf t.mem) := by
  have cellLt : (s.cell a).toNat < 65536 := (s.cell a).isLt
  unfold write at h
  split at h
  · next hk =>
    cases h
    refine ⟨rfl, ⟨fun b hb => ?_, fun _ => ?_, fun hn => absurd hk hn, fun e he => by simp [hk] at he, fun _ => rfl⟩,
      fun hm => memory_wf_write hm cellLt v⟩
    · exact memory_read_write_other _ _ fun he => hb (BitVec.eq_of_toNat_eq he.symm)
    · exact memory_read_write_same _ _ _
  · next hk =>
    split at h
    · cases h
      exact ⟨rfl, ⟨fun _ _ => rfl, fun hr => by simp [State.IsRam, hk] at hr, fun _ => rfl, fun e he => by simp [hk] at he,
        fun _ => rfl⟩, id⟩
    · cases h
  · next b hk =>
    cases h
    exact ⟨rfl, ⟨fun _ _ => rfl, fun hr => by simp [State.IsRam, hk] at hr, fun _ => rfl, fun _ _ => rfl,
      fun hn => absurd hk (hn b)⟩, id⟩
  · next hk =>
    cases h
    exact ⟨rfl, ⟨fun _ _ => rfl, fun hr => by simp [State.IsRam, hk] at hr, fun _ => rfl, fun e he => by simp [hk] at he,
      fun _ => rfl⟩, id⟩

/-- What a store left, seen from a state before it with the same platform and contents, and to a state after it with the
same memory and history. -/
theorem StoredOnly.transport {s s1 t t1 : State} {a : Word} {v : Byte} {h : List DeviceEvent} (k : StoredOnly s1 a v h t)
    (hb : BusStep s s1) (hbyte : ∀ b, t1.byteAt b = t.byteAt b) (hmem : t1.mem = t.mem) (hev : t1.events = t.events) :
    StoredOnly s a v h t1 := by
  have hc : ∀ b, s1.cell b = s.cell b := hb.cell_eq
  have hk : ∀ b, s1.kindAt b = s.kindAt b := hb.kindAt_eq
  refine ⟨fun b hne => ?_, fun hr => ?_, fun hr => ?_, fun e he => ?_, fun he => ?_⟩
  · rw [hbyte, k.elsewhere b (by rwa [hc, hc]), hb.byteAt_eq]
  · rw [hbyte, k.inRam (by rw [State.IsRam, hk]; exact hr)]
  · rw [hmem, k.notRam (by rw [State.IsRam, hk]; exact hr), hb.mem_eq]
  · rw [hev, k.onDevice e (by rw [hk]; exact he), hc]
  · rw [hev, k.noDevice (fun e => by rw [hk]; exact he e)]

theorem write_fault {s : State} {a : Word} {v : Byte} {e : Fault} (h : write a v s = .fault e) :
    e = .writeToRom a ∧ s.kindAt a = .rom ∧ s.cfg.platform.onRomWrite = .fault := by
  unfold write at h
  split at h
  · cases h
  · next hk =>
    split at h
    · cases h
    · next hp => cases h; exact ⟨rfl, hk, hp⟩
  · cases h
  · cases h

theorem write_rom {s : State} {a : Word} {v : Byte} (h : ¬ s.MayStore a) : write a v s = .fault (.writeToRom a) := by
  obtain ⟨hk, hp⟩ := not_not.mp h
  unfold write; rw [hk]; simp only; rw [hp]

theorem write_not_refused {s : State} {a : Word} {v : Byte} {e : Refusal} : write a v s ≠ .refused e := by
  unfold write
  split
  · simp
  · split <;> simp
  · simp
  · simp

/-- A store completes unless the platform asks for a fault on ROM. -/
theorem write_completes {s : State} {a : Word} (v : Byte) (h : s.MayStore a) : ∃ t, write a v s = .next t := by
  unfold write
  split
  · exact ⟨_, rfl⟩
  · next hk =>
    split
    · exact ⟨_, rfl⟩
    · next hp => exact absurd ⟨hk, hp⟩ h
  · exact ⟨_, rfl⟩
  · exact ⟨_, rfl⟩

/-- From `s` to `t` only memory accesses were made: memory may have changed too, keeping its canonical form. -/
structure StoreStep (s t : State) : Prop where
  same : t = { s with mem := t.mem, events := t.events, draws := t.draws, sp := t.sp }
  history : ∃ l, t.events = l ++ s.events ∧ ∀ e ∈ l, ∃ b, s.cfg.platform.kindOf e.cell = .device b
  draws : s.draws ≤ t.draws
  wf : Memory.wf s.mem → Memory.wf t.mem

namespace StoreStep

variable {s t u : State}

theorem ofBus (h : BusStep s t) : StoreStep s t :=
  ⟨by rw [h.same], h.history, h.draws, fun hm => by rwa [h.mem_eq]⟩

theorem a_eq (h : StoreStep s t) : t.a = s.a := by rw [h.same]
theorem x_eq (h : StoreStep s t) : t.x = s.x := by rw [h.same]
theorem y_eq (h : StoreStep s t) : t.y = s.y := by rw [h.same]
theorem pc_eq (h : StoreStep s t) : t.pc = s.pc := by rw [h.same]
theorem p_eq (h : StoreStep s t) : t.p = s.p := by rw [h.same]
theorem nmiPrev_eq (h : StoreStep s t) : t.nmiPrev = s.nmiPrev := by rw [h.same]
theorem nmiPending_eq (h : StoreStep s t) : t.nmiPending = s.nmiPending := by rw [h.same]
theorem iPoll_eq (h : StoreStep s t) : t.iPoll = s.iPoll := by rw [h.same]
theorem inputs_eq (h : StoreStep s t) : t.inputs = s.inputs := by rw [h.same]
theorem environment_eq (h : StoreStep s t) : t.environment = s.environment := by rw [h.same]
theorem time_eq (h : StoreStep s t) : t.time = s.time := by rw [h.same]
theorem cfg_eq (h : StoreStep s t) : t.cfg = s.cfg := by rw [h.same]
theorem cell_eq (h : StoreStep s t) (a : Word) : t.cell a = s.cell a := by rw [h.same]; rfl
theorem kindAt_eq (h : StoreStep s t) (a : Word) : t.kindAt a = s.kindAt a := by rw [h.same]; rfl

theorem trans (h : StoreStep s t) (k : StoreStep t u) : StoreStep s u := by
  refine ⟨?_, ?_, h.draws.trans k.draws, fun hm => k.wf (h.wf hm)⟩
  · rw [k.same, h.same]
  · obtain ⟨l, hl, hd⟩ := h.history
    obtain ⟨l', hl', hd'⟩ := k.history
    refine ⟨l' ++ l, by rw [hl', hl, List.append_assoc], fun e he => ?_⟩
    rcases List.mem_append.mp he with he | he
    · simpa [h.cfg_eq] using hd' e he
    · exact hd e he

end StoreStep

theorem write_storeStep {s t : State} {a : Word} {v : Byte} (h : write a v s = .next t) : StoreStep s t := by
  obtain ⟨hs, ho, hw⟩ := write_spec h
  refine ⟨by rw [hs], ?_, by rw [hs], hw⟩
  by_cases hd : ∃ e, s.kindAt a = .device e
  · obtain ⟨e, he⟩ := hd
    exact ⟨[.write (s.cell a) v], by rw [ho.onDevice e he]; rfl,
      fun e' he' => by obtain rfl := List.mem_singleton.mp he'; exact ⟨e, he⟩⟩
  · exact ⟨[], by rw [ho.noDevice fun e he => hd ⟨e, he⟩]; rfl, by simp⟩

/-! ### The stack -/

theorem stackAddr_eq (sp : Byte) : stackAddr sp = BitVec.ofNat 16 (0x0100 + sp.toNat) := by
  revert sp; decide

theorem push_eq_next {s t : State} {v : Byte} :
    push v s = .next t ↔ ∃ u, write (stackAddr s.sp) v s = .next u ∧ t = u.setSp (u.sp - 1#8) := by
  simp only [push, bindNext_eq_next, Host.Outcome.next.injEq]
  exact exists_congr fun u => and_congr_right fun _ => eq_comm

theorem setSp_storeStep (s : State) (v : Byte) : StoreStep s (s.setSp v) := ⟨rfl, ⟨[], rfl, by simp⟩, le_rfl, id⟩

theorem push_spec {s t : State} {v : Byte} (h : push v s = .next t) :
    StoreStep s t ∧ t.sp = s.sp - 1#8 ∧ StoredOnly s (stackAddr s.sp) v s.events t := by
  obtain ⟨u, hu, rfl⟩ := push_eq_next.mp h
  obtain ⟨hs, ho, hw⟩ := write_spec hu
  have hsp : u.sp = s.sp := by rw [hs]
  refine ⟨(write_storeStep hu).trans (setSp_storeStep u _), by simp [hsp], ?_⟩
  exact ⟨ho.elsewhere, ho.inRam, ho.notRam, ho.onDevice, ho.noDevice⟩

theorem push_ram {s : State} (h : s.IsRam (stackAddr s.sp)) (v : Byte) :
    push v s = .next ((s.storeCell (stackAddr s.sp) v).setSp (s.sp - 1#8)) := by
  simp [push, write_ram h]

theorem pushWord_eq_next {s t : State} {v : Word} :
    pushWord v s = .next t ↔ ∃ u, push (highByte v) s = .next u ∧ push (lowByte v) u = .next t := by
  simp [pushWord, bindNext_eq_next]

theorem pushWord_spec {s t : State} {v : Word} (h : pushWord v s = .next t) : StoreStep s t ∧ t.sp = s.sp - 2#8 := by
  obtain ⟨u, h1, h2⟩ := pushWord_eq_next.mp h
  obtain ⟨a1, b1, -⟩ := push_spec h1
  obtain ⟨a2, b2, -⟩ := push_spec h2
  exact ⟨a1.trans a2, by rw [b2, b1]; bv_omega⟩

theorem push_completes {s : State} (v : Byte) (h : s.MayStore (stackAddr s.sp)) : ∃ t, push v s = .next t := by
  obtain ⟨u, hu⟩ := write_completes v h
  exact ⟨_, push_eq_next.mpr ⟨u, hu, rfl⟩⟩

theorem pull_spec {s t : State} {v : Byte} (h : pull s = .next (v, t)) : BusStep (s.setSp (s.sp + 1#8)) t := read_spec h

theorem pull_memory {s : State} (h : s.IsMemory (stackAddr (s.sp + 1#8))) :
    pull s = .next (s.byteAt (stackAddr (s.sp + 1#8)), s.setSp (s.sp + 1#8)) := by
  have h' : (s.setSp (s.sp + 1#8)).IsMemory (stackAddr (s.sp + 1#8)) := by simpa [State.IsMemory] using h
  rw [pull, read_memory h', setSp_byteAt]

theorem pullWord_eq_next {s t : State} {v : Word} :
    pullWord s = .next (v, t) ↔
      ∃ lo u hi, pull s = .next (lo, u) ∧ pull u = .next (hi, t) ∧ v = word hi lo := by
  simp only [pullWord, bindNext_eq_next, Prod.exists, Host.Outcome.next.injEq, Prod.mk.injEq]
  constructor
  · rintro ⟨lo, u, h1, hi, w, h2, rfl, rfl⟩; exact ⟨lo, u, hi, h1, h2, rfl⟩
  · rintro ⟨lo, u, hi, h1, h2, rfl⟩; exact ⟨lo, u, h1, hi, t, h2, rfl, rfl⟩

theorem pull_storeStep {s t : State} {v : Byte} (h : pull s = .next (v, t)) : StoreStep s t ∧ t.sp = s.sp + 1#8 :=
  ⟨(setSp_storeStep s _).trans (.ofBus (pull_spec h)), by rw [(pull_spec h).sp_eq]; simp⟩

theorem pullWord_spec {s t : State} {v : Word} (h : pullWord s = .next (v, t)) :
    StoreStep s t ∧ t.sp = s.sp + 2#8 ∧ t.mem = s.mem := by
  obtain ⟨lo, u, hi, h1, h2, -⟩ := pullWord_eq_next.mp h
  obtain ⟨a1, b1⟩ := pull_storeStep h1
  obtain ⟨a2, b2⟩ := pull_storeStep h2
  exact ⟨a1.trans a2, by rw [b2, b1]; bv_omega, by rw [(pull_spec h2).mem_eq, setSp_mem, (pull_spec h1).mem_eq, setSp_mem]⟩

theorem pushWord_ram {s : State} (h : s.IsRam (stackAddr s.sp)) (h' : s.IsRam (stackAddr (s.sp - 1#8))) (v : Word) :
    pushWord v s = .next (((s.storeCell (stackAddr s.sp) (highByte v)).storeCell (stackAddr (s.sp - 1#8))
      (lowByte v)).setSp (s.sp - 2#8)) := by
  have e : s.sp - 1#8 - 1#8 = s.sp - 2#8 := by bv_omega
  rw [pushWord, push_ram h, bindNext_next, push_ram (by simpa [State.IsRam] using h')]
  simp [State.setSp, State.storeCell, State.cell, e]

theorem pullWord_memory {s : State} (h : s.IsMemory (stackAddr (s.sp + 1#8))) (h' : s.IsMemory (stackAddr (s.sp + 2#8))) :
    pullWord s = .next (word (s.byteAt (stackAddr (s.sp + 2#8))) (s.byteAt (stackAddr (s.sp + 1#8))),
      s.setSp (s.sp + 2#8)) := by
  have e : s.sp + 1#8 + 1#8 = s.sp + 2#8 := by bv_omega
  rw [pullWord, pull_memory h]
  simp only [bindNext_next]
  rw [pull_memory (by simpa [State.IsMemory, e] using h')]
  simp [State.setSp, State.byteAt, State.cell, e]

/-- The byte pushed for P, bit by bit. -/
theorem pByte_eq_pushedByte (p : Flags) (b : Bool) : pByte p b = p.pushedByte b := by
  obtain ⟨n, v, d, i, z, c⟩ := p
  revert n v d i z c b
  decide

/-- The flags survive a push and a pull (R33, R34). -/
theorem flagsOf_pByte (p : Flags) (b : Bool) : flagsOf (pByte p b) = p := by
  obtain ⟨n, v, d, i, z, c⟩ := p
  revert n v d i z c b
  decide

/-! ### Exception entry and return -/

theorem enter_eq_next {s t : State} {ret vector : Word} {b : Bool} :
    enter ret b vector s = .next t ↔
      ∃ u w target x, pushWord ret s = .next u ∧ push (pByte u.p b) u = .next w ∧
        read16 vector (w.setP { w.p with i := true }) = .next (target, x) ∧ t = x.jump target := by
  simp only [enter, bindNext_eq_next, Prod.exists, Host.Outcome.next.injEq]
  constructor
  · rintro ⟨u, h1, w, h2, target, x, h3, rfl⟩; exact ⟨u, w, target, x, h1, h2, h3, rfl⟩
  · rintro ⟨u, w, target, x, h1, h2, h3, rfl⟩; exact ⟨u, h1, w, h2, target, x, h3, rfl⟩

/-- With its pushes in RAM and its vector in memory, an entry completes in the state that `State.entered` writes out. -/
theorem enter_ram {s : State} {vector : Word} (ret : Word) (b : Bool) (h : s.StackRam) (hv : s.IsMemory vector)
    (hv' : s.IsMemory (vector + 1#16)) : enter ret b vector s = .next (s.entered ret b vector) := by
  have e : s.sp - 2#8 - 1#8 = s.sp - 3#8 := by bv_omega
  rw [enter, pushWord_ram h.1 h.2.1, bindNext_next, push_ram (by simpa [State.IsRam] using h.2.2), bindNext_next,
    read16_memory (by simpa [State.IsMemory] using hv) (by simpa [State.IsMemory] using hv'), bindNext_next]
  simp [State.entered, State.jump, State.setP, State.setSp, State.storeCell, State.byteAt, State.cell, e, pByte_eq_pushedByte]

theorem returnFrom_eq_next {s t : State} :
    returnFrom s = .next t ↔
      ∃ v u target w, pull s = .next (v, u) ∧ pullWord (u.setP (flagsOf v)) = .next (target, w) ∧ t = w.jump target := by
  simp only [returnFrom, bindNext_eq_next, Prod.exists, Host.Outcome.next.injEq]
  constructor
  · rintro ⟨v, u, h1, target, w, h2, rfl⟩; exact ⟨v, u, target, w, h1, h2, rfl⟩
  · rintro ⟨v, u, target, w, h1, h2, rfl⟩; exact ⟨v, u, h1, target, w, h2, rfl⟩

/-- With its pulls from memory, a return completes: P, then PC low and high. -/
theorem returnFrom_memory {s : State} (h1 : s.IsMemory (stackAddr (s.sp + 1#8)))
    (h2 : s.IsMemory (stackAddr (s.sp + 2#8))) (h3 : s.IsMemory (stackAddr (s.sp + 3#8))) :
    returnFrom s = .next (((s.setP (flagsOf (s.byteAt (stackAddr (s.sp + 1#8))))).setSp (s.sp + 3#8)).jump
      (word (s.byteAt (stackAddr (s.sp + 3#8))) (s.byteAt (stackAddr (s.sp + 2#8))))) := by
  have e1 : s.sp + 1#8 + 1#8 = s.sp + 2#8 := by bv_omega
  have e2 : s.sp + 1#8 + 2#8 = s.sp + 3#8 := by bv_omega
  rw [returnFrom, pull_memory h1]
  simp only [bindNext_next]
  rw [pullWord_memory (by simpa [State.IsMemory, e1] using h2) (by simpa [State.IsMemory, e2] using h3)]
  simp [State.setP, State.setSp, State.byteAt, State.cell, State.jump, e1, e2]

end Sys2Proof.Machine
end

