-- ==== Sys2Proof/Laws/Operands.lean ====
section
/-! SUPPORT. What the operand forms and the shared shapes of instructions can do, said once. -/

namespace Sys2Proof.Machine

/-! ### Reads and writes do not look at registers -/

/-- Two states on which every read does the same: memory, history, draws and parameters agree. -/
theorem read_congr {s s' : State} {a : Word} {v : Byte} {t : State} (hm : s'.mem = s.mem) (he : s'.events = s.events)
    (hd : s'.draws = s.draws) (hc : s'.cfg = s.cfg) (h : read a s = .next (v, t)) :
    read a s' = .next (v, { s' with events := t.events, draws := t.draws }) := by
  obtain ⟨a0, x0, y0, sp0, pc0, p0, np0, ng0, ip0, m0, e0, in0, en0, tm0, d0, c0⟩ := s
  obtain ⟨a1, x1, y1, sp1, pc1, p1, np1, ng1, ip1, m1, e1, in1, en1, tm1, d1, c1⟩ := s'
  obtain rfl : m1 = m0 := hm
  obtain rfl : e1 = e0 := he
  obtain rfl : d1 = d0 := hd
  obtain rfl : c1 = c0 := hc
  unfold read at h ⊢
  simp only [State.kindAt, State.cell, State.byteAt, State.record, State.drawByte] at h ⊢
  split at h
  · cases h; rfl
  · cases h; rfl
  · cases h; rfl
  · split at h
    · cases h; rfl
    · cases h

/-- Two states on which every write does the same. -/
theorem write_congr {s s' : State} {a : Word} {v : Byte} {t : State} (hm : s'.mem = s.mem) (he : s'.events = s.events)
    (hc : s'.cfg = s.cfg) (h : write a v s = .next t) : write a v s' = .next { s' with mem := t.mem, events := t.events } := by
  obtain ⟨a0, x0, y0, sp0, pc0, p0, np0, ng0, ip0, m0, e0, in0, en0, tm0, d0, c0⟩ := s
  obtain ⟨a1, x1, y1, sp1, pc1, p1, np1, ng1, ip1, m1, e1, in1, en1, tm1, d1, c1⟩ := s'
  obtain rfl : m1 = m0 := hm
  obtain rfl : e1 = e0 := he
  obtain rfl : c1 = c0 := hc
  unfold write at h ⊢
  simp only [State.kindAt, State.cell, State.storeCell, State.record] at h ⊢
  split at h
  · cases h; rfl
  · split at h <;> cases h; rfl
  · cases h; rfl
  · cases h; rfl

/-! ### Pointers and effective addresses -/

theorem readPtr_eq_next {s t : State} {p v : Word} :
    readPtr p s = .next (v, t) ↔
      ∃ lo u hi, read p s = .next (lo, u) ∧ ¬ (lowByte p = 0xFF#8 ∧ s.cfg.ptrPageCross = .fault) ∧
        read (ptrHighAddr p) u = .next (hi, t) ∧ v = word hi lo := by
  simp only [readPtr, bindNext_eq_next, Prod.exists]
  constructor
  · rintro ⟨lo, u, h1, h2⟩
    rw [(read_spec h1).cfg_eq] at h2
    split at h2
    · cases h2
    · next hn =>
      obtain ⟨⟨hi, w⟩, h3, h4⟩ := bindNext_eq_next.mp h2
      cases h4
      exact ⟨lo, u, hi, h1, hn, h3, rfl⟩
  · rintro ⟨lo, u, hi, h1, hn, h3, rfl⟩
    refine ⟨lo, u, h1, ?_⟩
    rw [(read_spec h1).cfg_eq, if_neg hn, h3]
    rfl

theorem readPtr_spec {s t : State} {p v : Word} (h : readPtr p s = .next (v, t)) : BusStep s t := by
  obtain ⟨lo, u, hi, h1, -, h2, -⟩ := readPtr_eq_next.mp h
  exact (read_spec h1).trans (read_spec h2)

/-- A platform with a device cell that has side effects says so. -/
theorem hasSideEffects_of_kindOf {p : Platform} {c : Word} (h : p.kindOf c = .device true) : p.hasSideEffects = true := by
  unfold Platform.kindOf at h
  simp only [Platform.hasSideEffects, Bool.or_eq_true, beq_iff_eq, List.any_eq_true]
  split at h
  · next r hr => exact .inr ⟨r, List.mem_of_find?_eq_some hr, h⟩
  · exact .inl h

/-- The test that `guardExtra` makes, written out. -/
theorem nearSideEffects_iff {s : State} {ea : Word} : s.nearSideEffects ea = true ↔ s.NearDevice ea := by
  have hw : (word (highByte ea) 0x00#8 - 0x0100#16).toNat = (ea.toNat / 256 + 255) % 256 * 256 := by
    have : word (highByte ea) 0x00#8 = BitVec.ofNat 16 (ea.toNat / 256 * 256) := by
      apply BitVec.eq_of_toNat_eq
      simp [word, highByte]
      omega
    rw [this]; simp; omega
  simp only [State.nearSideEffects, List.any_eq_true, List.mem_range, beq_iff_eq, State.NearDevice]
  constructor
  · rintro ⟨k, hk, h⟩
    refine ⟨_, h, ?_⟩
    rw [BitVec.toNat_add, hw, BitVec.toNat_ofNat]
    omega
  · rintro ⟨a, h, hp⟩
    refine ⟨(a.toNat + 65536 - (ea.toNat / 256 + 255) % 256 * 256) % 65536, ?_, ?_⟩
    · have := a.isLt; have := ea.isLt
      omega
    · rw [← h]; congr 1
      apply BitVec.eq_of_toNat_eq
      rw [BitVec.toNat_add, hw, BitVec.toNat_ofNat]
      have := a.isLt; have := ea.isLt
      omega

/-- An address clashes exactly where the parameter is `refuse` and a side-effecting device is near. -/
theorem extraClash_iff {s : State} {ea : Word} : s.extraClash ea = true ↔ s.cfg.extraBus = .refuse ∧ s.NearDevice ea := by
  simp only [State.extraClash, Bool.and_eq_true, beq_iff_eq, nearSideEffects_iff]
  constructor
  · rintro ⟨⟨h, -⟩, h'⟩; exact ⟨h, h'⟩
  · rintro ⟨h, h'⟩
    obtain ⟨a, ha, -⟩ := id h'
    exact ⟨⟨h, hasSideEffects_of_kindOf ha⟩, h'⟩

theorem guardExtra_eq_next {s t : State} {ea v : Word} :
    guardExtra ea s = .next (v, t) ↔ s.extraClash ea = false ∧ v = ea ∧ t = s := by
  unfold guardExtra
  split
  · next hc => exact ⟨fun h => (by cases h), fun h => (by rw [h.1] at hc; cases hc)⟩
  · next hc =>
    refine ⟨fun h => ?_, fun h => ?_⟩
    · cases h; exact ⟨by simpa using hc, rfl, rfl⟩
    · obtain ⟨-, rfl, rfl⟩ := h; rfl

theorem guardExtra_clear {s : State} {ea : Word} (h : s.extraClash ea = false) : guardExtra ea s = .next (ea, s) := by
  simp [guardExtra, h]

theorem guardExtra_clash {s : State} {ea : Word} (h : s.extraClash ea = true) :
    guardExtra ea s = .refused (.deviceExtraAccess ea) := by
  simp [guardExtra, h]

theorem extraClash_bus {s t : State} (h : BusStep s t) (ea : Word) : t.extraClash ea = s.extraClash ea := by
  rw [h.same]; rfl

theorem effectiveAddr_spec {f : AddrForm} {s t : State} {ea : Word} (h : effectiveAddr f s = .next (ea, t)) :
    BusStep s t := by
  unfold effectiveAddr at h
  cases f with
  | zp n => cases h; exact .refl s
  | abs nn => cases h; exact .refl s
  | zpx n => obtain ⟨-, -, rfl⟩ := guardExtra_eq_next.mp h; exact .refl _
  | zpy n => obtain ⟨-, -, rfl⟩ := guardExtra_eq_next.mp h; exact .refl _
  | absx nn => obtain ⟨-, -, rfl⟩ := guardExtra_eq_next.mp h; exact .refl _
  | absy nn => obtain ⟨-, -, rfl⟩ := guardExtra_eq_next.mp h; exact .refl _
  | indx n =>
    obtain ⟨⟨p, u⟩, h1, h2⟩ := bindNext_eq_next.mp h
    obtain ⟨-, -, rfl⟩ := guardExtra_eq_next.mp h2
    exact readPtr_spec h1
  | indy n =>
    obtain ⟨⟨p, u⟩, h1, h2⟩ := bindNext_eq_next.mp h
    obtain ⟨-, -, rfl⟩ := guardExtra_eq_next.mp h2
    exact readPtr_spec h1

theorem value_spec {o : Operand} {s t : State} {m : Byte} (h : o.value s = .next (m, t)) : BusStep s t := by
  unfold Operand.value at h
  cases o with
  | imm n => cases h; exact .refl s
  | mem f =>
    obtain ⟨⟨ea, u⟩, h1, h2⟩ := bindNext_eq_next.mp h
    exact (effectiveAddr_spec h1).trans (read_spec h2)

/-! ### The shapes of instructions -/

theorem withOperand_eq_next {o : Operand} {effect : Byte → State → State} {s t : State} :
    withOperand o effect s = .next t ↔
      ∃ m u, o.value s = .next (m, u) ∧ t = (effect m u).advance o.length := by
  simp only [withOperand, bindNext_eq_next, Prod.exists, Host.Outcome.next.injEq, eq_comm (a := t)]

theorem storeAt_eq_next {f : AddrForm} {v : Byte} {s t : State} :
    storeAt f v s = .next t ↔
      ∃ ea u w, effectiveAddr f s = .next (ea, u) ∧ write ea v u = .next w ∧ t = w.advance f.length := by
  simp only [storeAt, bindNext_eq_next, Prod.exists, Host.Outcome.next.injEq, eq_comm (a := t)]
  constructor
  · rintro ⟨ea, u, h1, w, h2, h3⟩; exact ⟨ea, u, w, h1, h2, h3⟩
  · rintro ⟨ea, u, w, h1, h2, h3⟩; exact ⟨ea, u, h1, w, h2, h3⟩

theorem modifyAt_eq_next {f : AddrForm} {op : Byte → Flags → Byte × Flags} {s t : State} :
    modifyAt f op s = .next t ↔
      ∃ ea u m w x, effectiveAddr f s = .next (ea, u) ∧ u.extraClash ea = false ∧ read ea u = .next (m, w) ∧
        write ea (op m w.p).1 w = .next x ∧ t = (x.setP (op m x.p).2).advance f.length := by
  simp only [modifyAt, bindNext_eq_next, Prod.exists, Host.Outcome.next.injEq, eq_comm (a := t)]
  constructor
  · rintro ⟨ea, u, h1, ea', u', h2, m, w, h3, x, h4, h5⟩
    obtain ⟨hc, rfl, rfl⟩ := guardExtra_eq_next.mp h2
    exact ⟨ea', u', m, w, x, h1, hc, h3, h4, h5⟩
  · rintro ⟨ea, u, m, w, x, h1, hc, h3, h4, h5⟩
    exact ⟨ea, u, h1, ea, u, guardExtra_clear hc, m, w, h3, x, h4, h5⟩

theorem withOperand_next {o : Operand} {effect : Byte → State → State} {s s1 : State} {m : Byte}
    (h : o.value s = .next (m, s1)) : withOperand o effect s = .next ((effect m s1).advance o.length) := by
  rw [withOperand, h]; rfl

theorem withOperand_fault {o : Operand} {effect : Byte → State → State} {s : State} {e : Fault}
    (h : o.value s = .fault e) : withOperand o effect s = .fault e := by
  rw [withOperand, h]; rfl

theorem withOperand_refused {f : AddrForm} {effect : Byte → State → State} {s : State} {r : Refusal}
    (h : effectiveAddr f s = .refused r) : withOperand (.mem f) effect s = .refused r := by
  rw [withOperand, Operand.value, h]; rfl

theorem storeAt_refused {f : AddrForm} {v : Byte} {s : State} {r : Refusal} (h : effectiveAddr f s = .refused r) :
    storeAt f v s = .refused r := by
  rw [storeAt, h]; rfl

theorem modifyAt_refused {f : AddrForm} {op : Byte → Flags → Byte × Flags} {s : State} {r : Refusal}
    (h : effectiveAddr f s = .refused r) : modifyAt f op s = .refused r := by
  rw [modifyAt, h]; rfl

/-- A read-modify-write is refused near a device with side effects in every form (R62). -/
theorem modifyAt_clash {f : AddrForm} {op : Byte → Flags → Byte × Flags} {s s1 : State} {ea : Word}
    (h : effectiveAddr f s = .next (ea, s1)) (hc : s1.extraClash ea = true) :
    modifyAt f op s = .refused (.deviceExtraAccess ea) := by
  simp only [modifyAt, h, bindNext_next, guardExtra_clash hc, bindNext_refused]

/-- A table of forms behaves alike where each of its instructions is `withOperand` of one effect, and that effect, after
any accesses, is the one claimed. -/
theorem readForms_of {forms : Byte → Word → List (Instr × Operand)} {guard : State → Byte → Prop}
    {effect : State → Byte → State} {eff : Byte → State → State}
    (hx : ∀ n nn, ∀ io ∈ forms n nn, ∀ s, exec io.1 s = withOperand io.2 eff s)
    (he : ∀ (s : State) (m : Byte) (ev : List DeviceEvent) (dr len : Nat), guard s m →
      (eff m { s with events := ev, draws := dr }).advance len =
        { effect s m with pc := s.pc + BitVec.ofNat 16 len, iPoll := s.p.i, events := ev, draws := dr }) :
    ReadForms forms guard effect := by
  intro n nn i o hio s
  have hx' := hx n nn (i, o) hio s
  refine ⟨fun m s1 h hg => ?_, fun e h => ?_⟩
  · rw [hx', withOperand_next h, (value_spec h).same, he s m _ _ _ hg]
  · rw [hx', withOperand_fault h]

/-- A store completes where its address is reached and the store does not stop, and leaves what `StoreForms` says. -/
theorem storeAt_next {f : AddrForm} {v : Byte} {s s1 : State} {ea : Word} (h : effectiveAddr f s = .next (ea, s1))
    (hm : s.MayStore ea) : ∃ t, storeAt f v s = .next t ∧ StoredOnly s ea v s1.events t ∧
      t = { s with
        mem := t.mem
        events := t.events
        draws := s1.draws
        pc := s.pc + BitVec.ofNat 16 f.length
        iPoll := s.p.i } := by
  have hb := effectiveAddr_spec h
  have hm' : s1.MayStore ea := by rw [State.MayStore, hb.kindAt_eq, hb.cfg_eq]; exact hm
  obtain ⟨w, hw⟩ := write_completes v hm'
  obtain ⟨hs, ho, -⟩ := write_spec hw
  refine ⟨w.advance f.length, storeAt_eq_next.mpr ⟨ea, s1, w, h, hw, rfl⟩, ?_, ?_⟩
  · exact ho.transport hb (advance_byteAt w f.length) rfl rfl
  · rw [hs, hb.same]; rfl

theorem storeAt_rom {f : AddrForm} {v : Byte} {s s1 : State} {ea : Word} (h : effectiveAddr f s = .next (ea, s1))
    (hm : ¬ s.MayStore ea) : storeAt f v s = .fault (.writeToRom ea) := by
  have hb := effectiveAddr_spec h
  simp only [storeAt, h, bindNext_next]
  exact bindNext_eq_fault.mpr (.inl (write_rom (by rwa [State.MayStore, hb.kindAt_eq, hb.cfg_eq])))

theorem storeForms_of {forms : Byte → Word → List (Instr × AddrForm)} {v : State → Byte}
    (hx : ∀ n nn, ∀ io ∈ forms n nn, ∀ s, exec io.1 s = storeAt io.2 (v s) s) : StoreForms forms v := by
  intro n nn i f hif s
  rw [hx n nn (i, f) hif s]
  exact ⟨fun ea s1 h => ⟨storeAt_next h, storeAt_rom h⟩, fun e h => bindNext_eq_fault.mpr (.inl h)⟩

theorem modifyAt_next {f : AddrForm} {op : Byte → Flags → Byte × Flags} {s s1 s2 : State} {ea : Word} {m : Byte}
    (h : effectiveAddr f s = .next (ea, s1)) (hc : s.extraClash ea = false) (hr : read ea s1 = .next (m, s2))
    (hm : s.MayStore ea) : ∃ t, modifyAt f op s = .next t ∧ StoredOnly s ea (op m s.p).1 s2.events t ∧
      t = { s with
        mem := t.mem
        events := t.events
        draws := s2.draws
        p := (op m s.p).2
        pc := s.pc + BitVec.ofNat 16 f.length
        iPoll := (op m s.p).2.i } := by
  have h1 := effectiveAddr_spec h
  have hb := h1.trans (read_spec hr)
  have hm' : s2.MayStore ea := by rw [State.MayStore, hb.kindAt_eq, hb.cfg_eq]; exact hm
  obtain ⟨w, hw⟩ := write_completes (op m s2.p).1 hm'
  obtain ⟨hs, ho, -⟩ := write_spec hw
  have hp : w.p = s.p := by rw [hs, ← hb.p_eq]
  rw [hb.p_eq] at ho
  refine ⟨(w.setP (op m w.p).2).advance f.length,
    modifyAt_eq_next.mpr ⟨ea, s1, m, s2, w, h, by rw [extraClash_bus h1]; exact hc, hr, hw, rfl⟩, ?_, ?_⟩
  · exact ho.transport hb (fun _ => rfl) rfl rfl
  · rw [hp, hs, hb.same]; rfl

theorem modifyAt_rom {f : AddrForm} {op : Byte → Flags → Byte × Flags} {s s1 s2 : State} {ea : Word} {m : Byte}
    (h : effectiveAddr f s = .next (ea, s1)) (hc : s.extraClash ea = false) (hr : read ea s1 = .next (m, s2))
    (hm : ¬ s.MayStore ea) : modifyAt f op s = .fault (.writeToRom ea) := by
  have h1 := effectiveAddr_spec h
  have hb := h1.trans (read_spec hr)
  simp only [modifyAt, h, bindNext_next, guardExtra_clear (s := s1) (ea := ea) (by rw [extraClash_bus h1]; exact hc), hr]
  exact bindNext_eq_fault.mpr (.inl (write_rom (by rwa [State.MayStore, hb.kindAt_eq, hb.cfg_eq])))

theorem modifyAt_fault {f : AddrForm} {op : Byte → Flags → Byte × Flags} {s s1 : State} {ea : Word} {e : Fault}
    (h : effectiveAddr f s = .next (ea, s1)) (hc : s.extraClash ea = false) (hr : read ea s1 = .fault e) :
    modifyAt f op s = .fault e := by
  have h1 := effectiveAddr_spec h
  simp only [modifyAt, h, bindNext_next, guardExtra_clear (s := s1) (ea := ea) (by rw [extraClash_bus h1]; exact hc), hr,
    bindNext_fault]

theorem modifyForms_of {forms : Byte → Word → List (Instr × AddrForm)} {guard : State → Prop}
    {op op' : Byte → Flags → Byte × Flags}
    (hx : ∀ n nn, ∀ io ∈ forms n nn, ∀ s, guard s → exec io.1 s = modifyAt io.2 op s)
    (ho : ∀ m p, op m p = op' m p ∧ (op m p).2.i = p.i) : ModifyForms forms guard op' := by
  intro n nn i f hif s s1 ea hg h hc
  rw [hx n nn (i, f) hif s hg]
  refine ⟨fun m s2 hr => ⟨fun hm => ?_, modifyAt_rom h hc hr⟩, fun e hr => modifyAt_fault h hc hr⟩
  obtain ⟨t, h1, h2, h3⟩ := modifyAt_next (op := op) h hc hr hm
  rw [(ho m s.p).2] at h3
  rw [(ho m s.p).1] at h2 h3
  exact ⟨t, h1, h2, h3⟩

/-! ### The tables of forms -/

/-- Every instruction of the read tables is `withOperand` of its operand, for some effect. -/
theorem reads_shape (n : Byte) (nn : Word) :
    ∀ io ∈ Forms.reads n nn, ∃ eff, ∀ s, exec io.1 s = withOperand io.2 eff s := by
  simp only [Forms.reads, Forms.lda, Forms.ldx, Forms.ldy, Forms.and, Forms.ora, Forms.eor, Forms.bit, Forms.adc, Forms.sbc,
    Forms.cmp, Forms.cpx, Forms.cpy, List.cons_append, List.nil_append, List.forall_mem_cons, List.not_mem_nil,
    false_implies, implies_true, and_true]
  and_intros <;> exact ⟨_, fun _ => rfl⟩

/-- Every instruction of the store tables is `storeAt` of its form, for some register. -/
theorem stores_shape (n : Byte) (nn : Word) :
    ∀ io ∈ Forms.stores n nn, ∃ v : State → Byte, ∀ s, exec io.1 s = storeAt io.2 (v s) s := by
  simp only [Forms.stores, Forms.sta, Forms.stx, Forms.sty, List.cons_append, List.nil_append, List.forall_mem_cons,
    List.not_mem_nil, false_implies, implies_true, and_true]
  and_intros <;> first | exact ⟨State.a, fun _ => rfl⟩ | exact ⟨State.x, fun _ => rfl⟩ | exact ⟨State.y, fun _ => rfl⟩

/-- Every instruction of the read-modify-write tables is `modifyAt` of its form, for some operation, on a chip that has
it. -/
theorem modifies_shape (n : Byte) (nn : Word) :
    ∀ io ∈ Forms.modifies n nn, ∃ op, ∀ s, (io.1.mnemonic = .ror → s.cfg.hasRor = true) →
      exec io.1 s = modifyAt io.2 op s := by
  simp only [Forms.modifies, Forms.inc, Forms.dec, Forms.asl, Forms.lsr, Forms.rol, Forms.ror, List.cons_append,
    List.nil_append, List.forall_mem_cons, List.not_mem_nil,
    false_implies, implies_true, and_true]
  and_intros <;> first | exact ⟨_, fun _ _ => rfl⟩ | exact ⟨_, fun _ h => if_pos (h rfl)⟩

end Sys2Proof.Machine
end

