-- ==== Sys2Proof/Laws/Exec.lean ====
section
/-! SUPPORT. What every instruction keeps, and what the fetch reads. -/

namespace Sys2Proof.Machine

/-- From `s` to `t` the parameters, the environment and the NMI latches are kept, the event history and the draws only grow,
each new event is at a device cell, and memory keeps its canonical form. -/
structure Kept (s t : State) : Prop where
  cfg : t.cfg = s.cfg
  inputs : t.inputs = s.inputs
  environment : t.environment = s.environment
  time : t.time = s.time
  nmiPrev : t.nmiPrev = s.nmiPrev
  nmiPending : t.nmiPending = s.nmiPending
  history : ∃ l, t.events = l ++ s.events ∧ ∀ e ∈ l, ∃ b, s.cfg.platform.kindOf e.cell = .device b
  draws : s.draws ≤ t.draws
  wf : Memory.wf s.mem → Memory.wf t.mem

namespace Kept

variable {s t u : State}

theorem ofStore (h : StoreStep s t) : Kept s t :=
  ⟨h.cfg_eq, h.inputs_eq, h.environment_eq, h.time_eq, h.nmiPrev_eq, h.nmiPending_eq, h.history, h.draws, h.wf⟩

theorem ofBus (h : BusStep s t) : Kept s t := ofStore (.ofBus h)

theorem refl (s : State) : Kept s s := ofBus (.refl s)

theorem trans (h : Kept s t) (k : Kept t u) : Kept s u := by
  refine ⟨k.cfg.trans h.cfg, k.inputs.trans h.inputs, k.environment.trans h.environment, k.time.trans h.time,
    k.nmiPrev.trans h.nmiPrev, k.nmiPending.trans h.nmiPending, ?_, h.draws.trans k.draws, fun hm => k.wf (h.wf hm)⟩
  obtain ⟨l, hl, hd⟩ := h.history
  obtain ⟨l', hl', hd'⟩ := k.history
  refine ⟨l' ++ l, by rw [hl', hl, List.append_assoc], fun e he => ?_⟩
  rcases List.mem_append.mp he with he | he
  · simpa [h.cfg] using hd' e he
  · exact hd e he

/-- Changes to registers, flags and PC alone. -/
theorem ofRegisters (h : t = { s with
    a := t.a, x := t.x, y := t.y, sp := t.sp, pc := t.pc, p := t.p, iPoll := t.iPoll, draws := t.draws })
    (hd : s.draws ≤ t.draws) : Kept s t := by
  rw [h]; exact ⟨rfl, rfl, rfl, rfl, rfl, rfl, ⟨[], rfl, by simp⟩, hd, id⟩

end Kept

theorem decimalStrict_registers (m : Byte) (r : Byte × Bool) (s : State) :
    decimalStrict m r s = { s with
      a := (decimalStrict m r s).a, p := (decimalStrict m r s).p, draws := (decimalStrict m r s).draws } ∧
      s.draws ≤ (decimalStrict m r s).draws := by
  unfold decimalStrict
  split
  · exact ⟨rfl, Nat.le_add_right _ 3⟩
  · exact ⟨rfl, Nat.le_add_right _ 5⟩

/-- ADC changes A, the flags and the draws alone. -/
theorem adcEffect_registers (m : Byte) (s : State) :
    adcEffect m s = { s with a := (adcEffect m s).a, p := (adcEffect m s).p, draws := (adcEffect m s).draws } ∧
      s.draws ≤ (adcEffect m s).draws := by
  unfold adcEffect
  split
  · split
    · exact decimalStrict_registers _ _ _
    · exact ⟨rfl, le_rfl⟩
  · exact ⟨rfl, le_rfl⟩

/-- SBC changes A, the flags and the draws alone. -/
theorem sbcEffect_registers (m : Byte) (s : State) :
    sbcEffect m s = { s with a := (sbcEffect m s).a, p := (sbcEffect m s).p, draws := (sbcEffect m s).draws } ∧
      s.draws ≤ (sbcEffect m s).draws := by
  unfold sbcEffect
  split
  · split
    · exact decimalStrict_registers _ _ _
    · exact ⟨rfl, le_rfl⟩
  · exact ⟨rfl, le_rfl⟩

theorem withOperand_kept {o : Operand} {eff : Byte → State → State} {s t : State}
    (h : withOperand o eff s = .next t) (hk : ∀ m u, Kept u (eff m u)) : Kept s t := by
  obtain ⟨m, u, h1, rfl⟩ := withOperand_eq_next.mp h
  exact ((Kept.ofBus (value_spec h1)).trans (hk m u)).trans (.ofRegisters rfl le_rfl)

theorem storeAt_kept {f : AddrForm} {v : Byte} {s t : State} (h : storeAt f v s = .next t) : Kept s t := by
  obtain ⟨ea, u, w, h1, h2, rfl⟩ := storeAt_eq_next.mp h
  exact ((Kept.ofBus (effectiveAddr_spec h1)).trans (.ofStore (write_storeStep h2))).trans (.ofRegisters rfl le_rfl)

theorem modifyAt_kept {f : AddrForm} {op : Byte → Flags → Byte × Flags} {s t : State} (h : modifyAt f op s = .next t) :
    Kept s t := by
  obtain ⟨ea, u, m, w, x, h1, -, h3, h4, rfl⟩ := modifyAt_eq_next.mp h
  exact (((Kept.ofBus (effectiveAddr_spec h1)).trans (.ofBus (read_spec h3))).trans (.ofStore (write_storeStep h4))).trans
    (.ofRegisters rfl le_rfl)

theorem ifRor_eq_next {opcode : Byte} {r : Result} {s t : State} :
    ifRor opcode r s = .next t ↔ s.cfg.hasRor = true ∧ r = .next t := by
  unfold ifRor
  split <;> simp [*]

theorem enter_kept {s t : State} {ret vector : Word} {b : Bool} (h : enter ret b vector s = .next t) : Kept s t := by
  obtain ⟨u, w, target, x, h1, h2, h3, rfl⟩ := enter_eq_next.mp h
  refine (((Kept.ofStore (pushWord_spec h1).1).trans (.ofStore (push_spec h2).1)).trans ?_).trans (.ofRegisters rfl le_rfl)
  exact (Kept.ofRegisters (t := w.setP { w.p with i := true }) rfl le_rfl).trans (.ofBus (read16_spec h3))

theorem returnFrom_kept {s t : State} (h : returnFrom s = .next t) : Kept s t := by
  obtain ⟨v, u, target, w, h1, h2, rfl⟩ := returnFrom_eq_next.mp h
  refine ((Kept.ofStore (pull_storeStep h1).1).trans ?_).trans (.ofRegisters rfl le_rfl)
  exact (Kept.ofRegisters (t := u.setP (flagsOf v)) rfl le_rfl).trans (.ofStore (pullWord_spec h2).1)

theorem next_kept {s t u : State} (h : (.next u : Result) = .next t) (hk : Kept s u) : Kept s t := by
  cases h; exact hk

theorem branchIf_kept {cond : Bool} {n : Byte} {s t : State} (h : branchIf cond n s = .next t) : Kept s t := by
  cases cond <;> cases h <;> exact .ofRegisters rfl le_rfl

theorem push_kept {s t : State} {v : Byte} (h : (bindNext (push v s) fun s => implied s) = .next t) : Kept s t := by
  obtain ⟨u, h1, h2⟩ := bindNext_eq_next.mp h
  cases h2
  exact (Kept.ofStore (push_spec h1).1).trans (.ofRegisters rfl le_rfl)

theorem execPla_kept {s t : State} (h : execPla s = .next t) : Kept s t := by
  obtain ⟨⟨v, u⟩, h1, h2⟩ := bindNext_eq_next.mp h
  cases h2
  exact (Kept.ofStore (pull_storeStep h1).1).trans (.ofRegisters rfl le_rfl)

theorem execPlp_kept {s t : State} (h : execPlp s = .next t) : Kept s t := by
  obtain ⟨⟨v, u⟩, h1, h2⟩ := bindNext_eq_next.mp h
  cases h2
  exact (Kept.ofStore (pull_storeStep h1).1).trans (.ofRegisters rfl le_rfl)

theorem execJmpInd_kept {nn : Word} {s t : State} (h : execJmpInd nn s = .next t) : Kept s t := by
  obtain ⟨⟨v, u⟩, h1, h2⟩ := bindNext_eq_next.mp h
  cases h2
  exact (Kept.ofBus (readPtr_spec h1)).trans (.ofRegisters rfl le_rfl)

theorem pushChanges_iff {s : State} {a b : Word} : s.pushChanges a b = true ↔ s.PushHits a b := by
  simp [State.pushChanges, State.PushHits, and_assoc]

/-- The test that JSR makes, written out. -/
theorem jsrOverlap_iff {s : State} : s.jsrOverlap = true ↔ s.JsrOverwritesOperand := by
  simp only [State.jsrOverlap, Bool.or_eq_true, pushChanges_iff, stackAddr_eq, State.JsrOverwritesOperand, or_assoc]

theorem execJsr_eq_next {nn : Word} {s t : State} :
    execJsr nn s = .next t ↔ s.jsrOverlap = false ∧ ∃ u, pushWord (s.pc + 2#16) s = .next u ∧ t = u.jump nn := by
  unfold execJsr
  split
  · simp [*]
  · simp [*, bindNext_eq_next, eq_comm (a := t)]

theorem execJsr_kept {nn : Word} {s t : State} (h : execJsr nn s = .next t) : Kept s t := by
  obtain ⟨-, u, h1, rfl⟩ := execJsr_eq_next.mp h
  exact (Kept.ofStore (pushWord_spec h1).1).trans (.ofRegisters rfl le_rfl)

theorem execRts_kept {s t : State} (h : execRts s = .next t) : Kept s t := by
  obtain ⟨⟨v, u⟩, h1, h2⟩ := bindNext_eq_next.mp h
  cases h2
  exact (Kept.ofStore (pullWord_spec h1).1).trans (.ofRegisters rfl le_rfl)

/-- Every instruction that completes keeps what `Kept` says. -/
theorem exec_kept {i : Instr} {s t : State} (h : exec i s = .next t) : Kept s t := by
  cases i <;> simp only [exec] at h
  all_goals first
    | exact withOperand_kept h fun m u => .ofRegisters rfl le_rfl
    | exact storeAt_kept h
    | exact modifyAt_kept h
    | exact modifyAt_kept (ifRor_eq_next.mp h).2
    | exact withOperand_kept h fun m u => .ofRegisters (by rw [(adcEffect_registers m u).1]) (adcEffect_registers m u).2
    | exact withOperand_kept h fun m u => .ofRegisters (by rw [(sbcEffect_registers m u).1]) (sbcEffect_registers m u).2
    | exact next_kept h (.ofRegisters rfl le_rfl)
    | exact next_kept (ifRor_eq_next.mp h).2 (.ofRegisters rfl le_rfl)
    | exact branchIf_kept h
    | exact push_kept h
    | exact execPla_kept h
    | exact execPlp_kept h
    | exact execJmpInd_kept h
    | exact execJsr_kept h
    | exact execRts_kept h
    | exact enter_kept h
    | exact returnFrom_kept h

/-! ### The fetch -/

theorem fetch_spec {s t : State} {i : Instr} (h : fetch s = .next (i, t)) : BusStep s t := by
  obtain ⟨⟨op, u⟩, h1, h2⟩ := bindNext_eq_next.mp h
  have k := read_spec h1
  simp only at h2
  split at h2
  · cases h2
  · cases h2; exact k
  · obtain ⟨⟨n, v⟩, h3, h4⟩ := bindNext_eq_next.mp h2
    cases h4; exact k.trans (read_spec h3)
  · obtain ⟨⟨lo, v⟩, h3, h4⟩ := bindNext_eq_next.mp h2
    obtain ⟨⟨hi, w⟩, h5, h6⟩ := bindNext_eq_next.mp h4
    cases h6; exact (k.trans (read_spec h3)).trans (read_spec h5)

/-- From memory, the fetch reads the instruction whose encoding stands at PC and changes nothing, if the chip has it. -/
theorem fetch_memory {s : State} {i : Instr} (hm : ∀ k, k < i.length → s.IsMemory (s.pc + BitVec.ofNat 16 k))
    (hb : ∀ k (hk : k < (encode i).length), s.byteAt (s.pc + BitVec.ofNat 16 k) = (encode i)[k])
    (hc : shapeOnChip s.cfg.hasRor i.opcode = shapeOf i.opcode) : fetch s = .next (i, s) := by
  obtain ⟨sh, hs, hmk⟩ := shapeOf_opcode i
  have len : (encode i).length = i.length := by cases i <;> rfl
  have h0 : read s.pc s = .next (i.opcode, s) := by
    have := hb 0 (by simp [encode])
    have hr := read_memory (hm 0 (by rw [← len]; simp [encode]))
    simp only [BitVec.add_zero] at this hr
    rw [hr, this]; rfl
  rw [fetch, h0]
  simp only [bindNext_next, hc, hs]
  cases sh with
  | one j => obtain ⟨rfl, -⟩ := hmk; rfl
  | two f =>
    obtain ⟨n, rfl, hbytes⟩ := hmk
    have l2 : (encode (f n)).length = 2 := by simp [encode, hbytes]
    have h1 := read_memory (hm 1 (by rw [← len, l2]; decide))
    have e1 := hb 1 (by rw [l2]; decide)
    simp only [encode, hbytes, List.getElem_cons_succ, List.getElem_cons_zero] at e1
    rw [e1] at h1
    simp only [h1, bindNext_next]
  | three f =>
    obtain ⟨nn, rfl, hbytes⟩ := hmk
    have l3 : (encode (f nn)).length = 3 := by simp [encode, hbytes, wordBytes]
    have h1 := read_memory (hm 1 (by rw [← len, l3]; decide))
    have h2 := read_memory (hm 2 (by rw [← len, l3]; decide))
    have e1 := hb 1 (by rw [l3]; decide)
    have e2 := hb 2 (by rw [l3]; decide)
    simp only [encode, hbytes, wordBytes, List.getElem_cons_succ, List.getElem_cons_zero] at e1 e2
    rw [e1] at h1
    rw [e2] at h2
    simp only [h1, h2, bindNext_next, word_high_low]

end Sys2Proof.Machine
end

