-- ==== Sys2Proof/Laws/Flags.lean ====
section
/-! SUPPORT. What the adder gives, over natural and signed numbers. -/

namespace Sys2Proof.Machine

theorem addBin_r (a m : Byte) (c : Bool) : (addBin a m c).r = BitVec.ofNat 8 (a.toNat + m.toNat + c.toNat) := rfl

theorem addBin_cout (a m : Byte) (c : Bool) : (addBin a m c).cout = decide (256 ≤ a.toNat + m.toNat + c.toNat) := rfl

theorem msb_ofNat8 (t : Nat) : (BitVec.ofNat 8 t).msb = t.testBit 7 := by
  rw [BitVec.msb_eq_getLsbD_last, BitVec.getLsbD_ofNat]; simp

theorem ofNat8_beq_zero (t : Nat) : (BitVec.ofNat 8 t == 0#8) = decide (t % 256 = 0) := by
  rw [beq_eq_decide]
  exact decide_eq_decide.mpr ⟨fun h => by simpa using congrArg BitVec.toNat h, fun h => BitVec.eq_of_toNat_eq (by simpa using h)⟩

theorem msb_decide (a : Byte) : a.msb = decide (128 ≤ a.toNat) := BitVec.msb_eq_decide a

theorem toInt8 (a : Byte) : a.toInt = if 128 ≤ a.toNat then (a.toNat : Int) - 256 else a.toNat := by
  rw [BitVec.toInt_eq_toNat_cond]; have := a.isLt; split <;> split <;> omega

theorem addBin_v (a m : Byte) (c : Bool) : (addBin a m c).v =
    decide (a.toInt + m.toInt + (c.toNat: Int) < -128 ∨ 127 < a.toInt + m.toInt + (c.toNat: Int)) := by
  have ha := a.isLt
  have hm := m.isLt
  have hc : c.toNat ≤ 1 := c.toNat_le
  simp only [addBin, msb_decide, BitVec.toNat_ofNat, toInt8]
  rw [Bool.eq_iff_iff]
  simp only [Bool.and_eq_true, beq_iff_eq, bne_iff_ne, ne_eq, decide_eq_decide, decide_eq_true_eq]
  generalize c.toNat = k at *
  split <;> split <;> omega

theorem subBin_r (a m : Byte) (c : Bool) : (subBin a m c).r =
    BitVec.ofInt 8 ((a.toNat : Int) - m.toNat - (1 - (c.toNat : Int))) := by
  have hm := m.isLt
  apply BitVec.eq_of_toNat_eq
  have hc : c.toNat ≤ 1 := c.toNat_le
  simp only [subBin, addBin, BitVec.toNat_ofNat, BitVec.toNat_not, BitVec.toNat_ofInt]
  omega

theorem subBin_cout (a m : Byte) (c : Bool) : (subBin a m c).cout =
    decide (0 ≤ (a.toNat : Int) - m.toNat - (1 - (c.toNat : Int))) := by
  have hm := m.isLt
  have hc : c.toNat ≤ 1 := c.toNat_le
  simp only [subBin, addBin, BitVec.toNat_not, decide_eq_decide]
  omega

theorem subBin_v (a m : Byte) (c : Bool) : (subBin a m c).v =
    decide (a.toInt - m.toInt - (1 - (c.toNat: Int)) < -128 ∨ 127 < a.toInt - m.toInt - (1 - (c.toNat: Int))) := by
  have hm := m.isLt
  rw [subBin, addBin_v, decide_eq_decide]
  simp only [toInt8, BitVec.toNat_not]
  split <;> split <;> split <;> omega

theorem ofInt8_beq_zero (t : Int) : (BitVec.ofInt 8 t == 0#8) = decide (t % 256 = 0) := by
  rw [beq_eq_decide]
  refine decide_eq_decide.mpr ⟨fun h => ?_, fun h => BitVec.eq_of_toNat_eq ?_⟩
  · have := congrArg BitVec.toNat h; simp only [BitVec.toNat_ofInt] at this; simp at this; omega
  · simp only [BitVec.toNat_ofInt]; simp; omega

end Sys2Proof.Machine
end

