-- ==== Sys2Proof/Laws/PerInstr.lean ====
section
/-! SUPPORT. Facts about every instruction as syntax, one lemma per constructor. -/

/-- The encoding of the instruction starts with its opcode and is as long as its form says (R81, R83). -/
def Sys2Proof.Laws.EncodeLength.Statement (i : Sys2Proof.Instr) : Prop :=
  (Sys2Proof.encode i).head? = some i.opcode ∧ (Sys2Proof.encode i).length = i.length

namespace Sys2Proof.Laws.EncodeLength

theorem ldaImm (n : Byte) : Statement (.ldaImm n) := ⟨rfl, rfl⟩
theorem ldaZp (n : Byte) : Statement (.ldaZp n) := ⟨rfl, rfl⟩
theorem ldaZpx (n : Byte) : Statement (.ldaZpx n) := ⟨rfl, rfl⟩
theorem ldaAbs (nn : Word) : Statement (.ldaAbs nn) := ⟨rfl, rfl⟩
theorem ldaAbsx (nn : Word) : Statement (.ldaAbsx nn) := ⟨rfl, rfl⟩
theorem ldaAbsy (nn : Word) : Statement (.ldaAbsy nn) := ⟨rfl, rfl⟩
theorem ldaIndx (n : Byte) : Statement (.ldaIndx n) := ⟨rfl, rfl⟩
theorem ldaIndy (n : Byte) : Statement (.ldaIndy n) := ⟨rfl, rfl⟩
theorem ldxImm (n : Byte) : Statement (.ldxImm n) := ⟨rfl, rfl⟩
theorem ldxZp (n : Byte) : Statement (.ldxZp n) := ⟨rfl, rfl⟩
theorem ldxZpy (n : Byte) : Statement (.ldxZpy n) := ⟨rfl, rfl⟩
theorem ldxAbs (nn : Word) : Statement (.ldxAbs nn) := ⟨rfl, rfl⟩
theorem ldxAbsy (nn : Word) : Statement (.ldxAbsy nn) := ⟨rfl, rfl⟩
theorem ldyImm (n : Byte) : Statement (.ldyImm n) := ⟨rfl, rfl⟩
theorem ldyZp (n : Byte) : Statement (.ldyZp n) := ⟨rfl, rfl⟩
theorem ldyZpx (n : Byte) : Statement (.ldyZpx n) := ⟨rfl, rfl⟩
theorem ldyAbs (nn : Word) : Statement (.ldyAbs nn) := ⟨rfl, rfl⟩
theorem ldyAbsx (nn : Word) : Statement (.ldyAbsx nn) := ⟨rfl, rfl⟩
theorem staZp (n : Byte) : Statement (.staZp n) := ⟨rfl, rfl⟩
theorem staZpx (n : Byte) : Statement (.staZpx n) := ⟨rfl, rfl⟩
theorem staAbs (nn : Word) : Statement (.staAbs nn) := ⟨rfl, rfl⟩
theorem staAbsx (nn : Word) : Statement (.staAbsx nn) := ⟨rfl, rfl⟩
theorem staAbsy (nn : Word) : Statement (.staAbsy nn) := ⟨rfl, rfl⟩
theorem staIndx (n : Byte) : Statement (.staIndx n) := ⟨rfl, rfl⟩
theorem staIndy (n : Byte) : Statement (.staIndy n) := ⟨rfl, rfl⟩
theorem stxZp (n : Byte) : Statement (.stxZp n) := ⟨rfl, rfl⟩
theorem stxZpy (n : Byte) : Statement (.stxZpy n) := ⟨rfl, rfl⟩
theorem stxAbs (nn : Word) : Statement (.stxAbs nn) := ⟨rfl, rfl⟩
theorem styZp (n : Byte) : Statement (.styZp n) := ⟨rfl, rfl⟩
theorem styZpx (n : Byte) : Statement (.styZpx n) := ⟨rfl, rfl⟩
theorem styAbs (nn : Word) : Statement (.styAbs nn) := ⟨rfl, rfl⟩
theorem tax : Statement .tax := ⟨rfl, rfl⟩
theorem tay : Statement .tay := ⟨rfl, rfl⟩
theorem txa : Statement .txa := ⟨rfl, rfl⟩
theorem tya : Statement .tya := ⟨rfl, rfl⟩
theorem tsx : Statement .tsx := ⟨rfl, rfl⟩
theorem txs : Statement .txs := ⟨rfl, rfl⟩
theorem pha : Statement .pha := ⟨rfl, rfl⟩
theorem php : Statement .php := ⟨rfl, rfl⟩
theorem pla : Statement .pla := ⟨rfl, rfl⟩
theorem plp : Statement .plp := ⟨rfl, rfl⟩
theorem andImm (n : Byte) : Statement (.andImm n) := ⟨rfl, rfl⟩
theorem andZp (n : Byte) : Statement (.andZp n) := ⟨rfl, rfl⟩
theorem andZpx (n : Byte) : Statement (.andZpx n) := ⟨rfl, rfl⟩
theorem andAbs (nn : Word) : Statement (.andAbs nn) := ⟨rfl, rfl⟩
theorem andAbsx (nn : Word) : Statement (.andAbsx nn) := ⟨rfl, rfl⟩
theorem andAbsy (nn : Word) : Statement (.andAbsy nn) := ⟨rfl, rfl⟩
theorem andIndx (n : Byte) : Statement (.andIndx n) := ⟨rfl, rfl⟩
theorem andIndy (n : Byte) : Statement (.andIndy n) := ⟨rfl, rfl⟩
theorem oraImm (n : Byte) : Statement (.oraImm n) := ⟨rfl, rfl⟩
theorem oraZp (n : Byte) : Statement (.oraZp n) := ⟨rfl, rfl⟩
theorem oraZpx (n : Byte) : Statement (.oraZpx n) := ⟨rfl, rfl⟩
theorem oraAbs (nn : Word) : Statement (.oraAbs nn) := ⟨rfl, rfl⟩
theorem oraAbsx (nn : Word) : Statement (.oraAbsx nn) := ⟨rfl, rfl⟩
theorem oraAbsy (nn : Word) : Statement (.oraAbsy nn) := ⟨rfl, rfl⟩
theorem oraIndx (n : Byte) : Statement (.oraIndx n) := ⟨rfl, rfl⟩
theorem oraIndy (n : Byte) : Statement (.oraIndy n) := ⟨rfl, rfl⟩
theorem eorImm (n : Byte) : Statement (.eorImm n) := ⟨rfl, rfl⟩
theorem eorZp (n : Byte) : Statement (.eorZp n) := ⟨rfl, rfl⟩
theorem eorZpx (n : Byte) : Statement (.eorZpx n) := ⟨rfl, rfl⟩
theorem eorAbs (nn : Word) : Statement (.eorAbs nn) := ⟨rfl, rfl⟩
theorem eorAbsx (nn : Word) : Statement (.eorAbsx nn) := ⟨rfl, rfl⟩
theorem eorAbsy (nn : Word) : Statement (.eorAbsy nn) := ⟨rfl, rfl⟩
theorem eorIndx (n : Byte) : Statement (.eorIndx n) := ⟨rfl, rfl⟩
theorem eorIndy (n : Byte) : Statement (.eorIndy n) := ⟨rfl, rfl⟩
theorem bitZp (n : Byte) : Statement (.bitZp n) := ⟨rfl, rfl⟩
theorem bitAbs (nn : Word) : Statement (.bitAbs nn) := ⟨rfl, rfl⟩
theorem adcImm (n : Byte) : Statement (.adcImm n) := ⟨rfl, rfl⟩
theorem adcZp (n : Byte) : Statement (.adcZp n) := ⟨rfl, rfl⟩
theorem adcZpx (n : Byte) : Statement (.adcZpx n) := ⟨rfl, rfl⟩
theorem adcAbs (nn : Word) : Statement (.adcAbs nn) := ⟨rfl, rfl⟩
theorem adcAbsx (nn : Word) : Statement (.adcAbsx nn) := ⟨rfl, rfl⟩
theorem adcAbsy (nn : Word) : Statement (.adcAbsy nn) := ⟨rfl, rfl⟩
theorem adcIndx (n : Byte) : Statement (.adcIndx n) := ⟨rfl, rfl⟩
theorem adcIndy (n : Byte) : Statement (.adcIndy n) := ⟨rfl, rfl⟩
theorem sbcImm (n : Byte) : Statement (.sbcImm n) := ⟨rfl, rfl⟩
theorem sbcZp (n : Byte) : Statement (.sbcZp n) := ⟨rfl, rfl⟩
theorem sbcZpx (n : Byte) : Statement (.sbcZpx n) := ⟨rfl, rfl⟩
theorem sbcAbs (nn : Word) : Statement (.sbcAbs nn) := ⟨rfl, rfl⟩
theorem sbcAbsx (nn : Word) : Statement (.sbcAbsx nn) := ⟨rfl, rfl⟩
theorem sbcAbsy (nn : Word) : Statement (.sbcAbsy nn) := ⟨rfl, rfl⟩
theorem sbcIndx (n : Byte) : Statement (.sbcIndx n) := ⟨rfl, rfl⟩
theorem sbcIndy (n : Byte) : Statement (.sbcIndy n) := ⟨rfl, rfl⟩
theorem cmpImm (n : Byte) : Statement (.cmpImm n) := ⟨rfl, rfl⟩
theorem cmpZp (n : Byte) : Statement (.cmpZp n) := ⟨rfl, rfl⟩
theorem cmpZpx (n : Byte) : Statement (.cmpZpx n) := ⟨rfl, rfl⟩
theorem cmpAbs (nn : Word) : Statement (.cmpAbs nn) := ⟨rfl, rfl⟩
theorem cmpAbsx (nn : Word) : Statement (.cmpAbsx nn) := ⟨rfl, rfl⟩
theorem cmpAbsy (nn : Word) : Statement (.cmpAbsy nn) := ⟨rfl, rfl⟩
theorem cmpIndx (n : Byte) : Statement (.cmpIndx n) := ⟨rfl, rfl⟩
theorem cmpIndy (n : Byte) : Statement (.cmpIndy n) := ⟨rfl, rfl⟩
theorem cpxImm (n : Byte) : Statement (.cpxImm n) := ⟨rfl, rfl⟩
theorem cpxZp (n : Byte) : Statement (.cpxZp n) := ⟨rfl, rfl⟩
theorem cpxAbs (nn : Word) : Statement (.cpxAbs nn) := ⟨rfl, rfl⟩
theorem cpyImm (n : Byte) : Statement (.cpyImm n) := ⟨rfl, rfl⟩
theorem cpyZp (n : Byte) : Statement (.cpyZp n) := ⟨rfl, rfl⟩
theorem cpyAbs (nn : Word) : Statement (.cpyAbs nn) := ⟨rfl, rfl⟩
theorem incZp (n : Byte) : Statement (.incZp n) := ⟨rfl, rfl⟩
theorem incZpx (n : Byte) : Statement (.incZpx n) := ⟨rfl, rfl⟩
theorem incAbs (nn : Word) : Statement (.incAbs nn) := ⟨rfl, rfl⟩
theorem incAbsx (nn : Word) : Statement (.incAbsx nn) := ⟨rfl, rfl⟩
theorem inx : Statement .inx := ⟨rfl, rfl⟩
theorem iny : Statement .iny := ⟨rfl, rfl⟩
theorem decZp (n : Byte) : Statement (.decZp n) := ⟨rfl, rfl⟩
theorem decZpx (n : Byte) : Statement (.decZpx n) := ⟨rfl, rfl⟩
theorem decAbs (nn : Word) : Statement (.decAbs nn) := ⟨rfl, rfl⟩
theorem decAbsx (nn : Word) : Statement (.decAbsx nn) := ⟨rfl, rfl⟩
theorem dex : Statement .dex := ⟨rfl, rfl⟩
theorem dey : Statement .dey := ⟨rfl, rfl⟩
theorem aslAcc : Statement .aslAcc := ⟨rfl, rfl⟩
theorem aslZp (n : Byte) : Statement (.aslZp n) := ⟨rfl, rfl⟩
theorem aslZpx (n : Byte) : Statement (.aslZpx n) := ⟨rfl, rfl⟩
theorem aslAbs (nn : Word) : Statement (.aslAbs nn) := ⟨rfl, rfl⟩
theorem aslAbsx (nn : Word) : Statement (.aslAbsx nn) := ⟨rfl, rfl⟩
theorem lsrAcc : Statement .lsrAcc := ⟨rfl, rfl⟩
theorem lsrZp (n : Byte) : Statement (.lsrZp n) := ⟨rfl, rfl⟩
theorem lsrZpx (n : Byte) : Statement (.lsrZpx n) := ⟨rfl, rfl⟩
theorem lsrAbs (nn : Word) : Statement (.lsrAbs nn) := ⟨rfl, rfl⟩
theorem lsrAbsx (nn : Word) : Statement (.lsrAbsx nn) := ⟨rfl, rfl⟩
theorem rolAcc : Statement .rolAcc := ⟨rfl, rfl⟩
theorem rolZp (n : Byte) : Statement (.rolZp n) := ⟨rfl, rfl⟩
theorem rolZpx (n : Byte) : Statement (.rolZpx n) := ⟨rfl, rfl⟩
theorem rolAbs (nn : Word) : Statement (.rolAbs nn) := ⟨rfl, rfl⟩
theorem rolAbsx (nn : Word) : Statement (.rolAbsx nn) := ⟨rfl, rfl⟩
theorem rorAcc : Statement .rorAcc := ⟨rfl, rfl⟩
theorem rorZp (n : Byte) : Statement (.rorZp n) := ⟨rfl, rfl⟩
theorem rorZpx (n : Byte) : Statement (.rorZpx n) := ⟨rfl, rfl⟩
theorem rorAbs (nn : Word) : Statement (.rorAbs nn) := ⟨rfl, rfl⟩
theorem rorAbsx (nn : Word) : Statement (.rorAbsx nn) := ⟨rfl, rfl⟩
theorem bpl (n : Byte) : Statement (.bpl n) := ⟨rfl, rfl⟩
theorem bmi (n : Byte) : Statement (.bmi n) := ⟨rfl, rfl⟩
theorem bvc (n : Byte) : Statement (.bvc n) := ⟨rfl, rfl⟩
theorem bvs (n : Byte) : Statement (.bvs n) := ⟨rfl, rfl⟩
theorem bcc (n : Byte) : Statement (.bcc n) := ⟨rfl, rfl⟩
theorem bcs (n : Byte) : Statement (.bcs n) := ⟨rfl, rfl⟩
theorem bne (n : Byte) : Statement (.bne n) := ⟨rfl, rfl⟩
theorem beq (n : Byte) : Statement (.beq n) := ⟨rfl, rfl⟩
theorem jmpAbs (nn : Word) : Statement (.jmpAbs nn) := ⟨rfl, rfl⟩
theorem jmpInd (nn : Word) : Statement (.jmpInd nn) := ⟨rfl, rfl⟩
theorem jsr (nn : Word) : Statement (.jsr nn) := ⟨rfl, rfl⟩
theorem rts : Statement .rts := ⟨rfl, rfl⟩
theorem clc : Statement .clc := ⟨rfl, rfl⟩
theorem sec : Statement .sec := ⟨rfl, rfl⟩
theorem cli : Statement .cli := ⟨rfl, rfl⟩
theorem sei : Statement .sei := ⟨rfl, rfl⟩
theorem cld : Statement .cld := ⟨rfl, rfl⟩
theorem sed : Statement .sed := ⟨rfl, rfl⟩
theorem clv : Statement .clv := ⟨rfl, rfl⟩
theorem nop : Statement .nop := ⟨rfl, rfl⟩
theorem brk : Statement .brk := ⟨rfl, rfl⟩
theorem rti : Statement .rti := ⟨rfl, rfl⟩

end Sys2Proof.Laws.EncodeLength
end

