-- ==== Sys2Proof/Laws/Run.lean ====
section
/-! SUPPORT. How a run under END_OF_RUN goes on, and how steps in a row are put together. -/

namespace Sys2Proof.Machine

variable {endOfRun : State → Bool} {k : Nat} {s t u : State}

@[simp] theorem steps_zero : Steps 0 s t ↔ s = t := Iff.rfl

@[simp] theorem steps_succ : Steps (k + 1) s t ↔ ∃ u, step s = .next u ∧ Steps k u t := Iff.rfl

/-- A run is over at once where END_OF_RUN holds. -/
theorem run_done (h : endOfRun s = true) : run endOfRun k s = .ended s := by
  cases k <;> simp [run, h]

theorem run_zero (h : endOfRun s = false) : run endOfRun 0 s = .running s := by simp [run, h]

/-- A run goes on from the next state where END_OF_RUN does not hold. -/
theorem run_next (h : endOfRun s = false) (hs : step s = .next u) : run endOfRun (k + 1) s = run endOfRun k u := by
  simp [run, h, hs]

theorem run_fault {e : Fault} (h : endOfRun s = false) (hs : step s = .fault e) : run endOfRun (k + 1) s = .fault e := by
  simp [run, h, hs]

theorem run_refused {r : Refusal} (h : endOfRun s = false) (hs : step s = .refused r) :
    run endOfRun (k + 1) s = .refused r := by
  simp [run, h, hs]

end Sys2Proof.Machine
end

