-- ==== Sys2Proof/WellFormed.lean ====
section
/-! DEFINITION. What an instruction must satisfy for a chip to have a defined meaning for it, as far as its text alone
tells. Every operand value is legal (R90) but for two restrictions the card states. The machine does not assume this
check: it gives every instruction the treatment its rule names. -/

namespace Sys2Proof

/-- The pointer of `(n),Y` must not cross a page (R259). That of `(n,X)` depends on X, so no check of the text is
possible. -/
def AddrForm.pointerInPage : AddrForm → Bool
  | .indy n => n != 0xFF#8
  | .zp _ => true
  | .zpx _ => true
  | .zpy _ => true
  | .abs _ => true
  | .absx _ => true
  | .absy _ => true
  | .indx _ => true

/-- "2 bytes must not cross page boundary" (R259): the pointer that an operand of `(n),Y` or `(nn)` names. -/
def Form.pointerInPage : Form → Bool
  | .mem f => f.pointerInPage
  | .ind nn => Machine.lowByte nn != 0xFF#8
  | .imp => true
  | .acc => true
  | .imm _ => true
  | .rel _ => true

/-- ROR is an instruction only of chips that have it (R6, R261). -/
def Instr.onChip (cfg : Config) (i : Instr) : Bool := cfg.hasRor || i.mnemonic != .ror

/-- The instruction keeps the restrictions that its text alone can break (R90, R259, R261). -/
def Instr.wellFormed (cfg : Config) (i : Instr) : Bool := i.form.pointerInPage && i.onChip cfg

end Sys2Proof
end

