-- ==== Sys2Proof/Tests/Slice0.lean ====
section
/-! SUPPORT. Tests. The expected results are the spec's: the encodings of the opcode table and of the operand lists of the
family rules (R110 to R209), and the vectors of 95_test_vectors.md, whose numbers the docstrings give. Then, for every
statement with hypotheses, a state that meets them. -/

namespace Sys2Proof.Tests

open Machine

/-! ### Helpers -/

/-- The flags N V D I Z C, in the order of 95_test_vectors.md. -/
def fl (b : BitVec 6) : Flags where
  n := b.getLsbD 5
  v := b.getLsbD 4
  d := b.getLsbD 3
  i := b.getLsbD 2
  z := b.getLsbD 1
  c := b.getLsbD 0

/-- The start state of the spec's vectors (95_test_vectors.md, Conventions), with bytes at PC and cells in memory. -/
def start (pc : Word) (bytes : List Byte) (cells : List (Word × Byte)) : State :=
  { State.reset with
    sp := 0xFF#8, p := fl 0, pc := pc,
    mem := (cells.foldl (fun s c => s.storeCell c.1 c.2) State.reset |>.loadBytes pc bytes).mem }

/-- The next state is there and `f` holds of it. -/
def after (s : State) (f : State → Bool) : Bool :=
  match step s with
  | .next t => f t
  | _ => false

/-- The step stops with this fault. -/
def stops (s : State) (e : Fault) : Bool :=
  match step s with
  | .fault e' => e == e'
  | _ => false

/-- A boundary where the listed lines are asserted; an interrupt that is takable is taken. -/
def lines (irq nmi res : Bool) : Boundary where
  irq := irq
  nmi := nmi
  res := res
  take := true

/-- ROM from F000, a device at D000 to D0FF, a device with side effects at D800 to D8FF, nothing at C000 to CFFF, and
RAM elsewhere, with pages A0 to AF naming the cells of pages B0 to BF. -/
def board : Platform where
  regions := [⟨0xF000, 0x1000, .rom⟩, ⟨0xD000, 0x0100, .device false⟩, ⟨0xD800, 0x0100, .device true⟩,
    ⟨0xC000, 0x1000, .unpopulated⟩]
  otherwise := .ram
  aliases := [⟨0xA000, 0x1000, 0xB000⟩]
  onNoneRead := .draw
  onRomWrite := .ignore

/-- A chip on that board. -/
def boardCfg : Config := { Config.default with platform := board }

/-- The same where the platform asks for faults; accesses near the devices are a premise. -/
def strictCfg : Config :=
  { Config.default with platform := { board with onNoneRead := .fault, onRomWrite := .fault }, extraBus := .premise }

/-- The parameters that never stop the model, on that board. -/
def freeCfg : Config := { boardCfg with ptrPageCross := .wrap, extraBus := .premise }

/-- A chip made before August 1976 (R6). -/
def oldCfg : Config := { Config.default with hasRor := false }

/-! ### Decoding: a word of every instruction, from its row of the opcode table -/

theorem test_decode_brk :
    decodeTableWord 8 0x00 = some .brk := by decide

theorem test_decode_ora :
    decodeTableWord 16 0x4201 = some (.oraIndx 0x42#8) ∧
    decodeTableWord 16 0x4205 = some (.oraZp 0x42#8) ∧
    decodeTableWord 16 0x4209 = some (.oraImm 0x42#8) ∧
    decodeTableWord 24 0x12340D = some (.oraAbs 0x1234#16) ∧
    decodeTableWord 16 0x4211 = some (.oraIndy 0x42#8) ∧
    decodeTableWord 16 0x4215 = some (.oraZpx 0x42#8) ∧
    decodeTableWord 24 0x123419 = some (.oraAbsy 0x1234#16) ∧
    decodeTableWord 24 0x12341D = some (.oraAbsx 0x1234#16) := by decide

theorem test_decode_asl :
    decodeTableWord 16 0x4206 = some (.aslZp 0x42#8) ∧
    decodeTableWord 8 0x0A = some .aslAcc ∧
    decodeTableWord 24 0x12340E = some (.aslAbs 0x1234#16) ∧
    decodeTableWord 16 0x4216 = some (.aslZpx 0x42#8) ∧
    decodeTableWord 24 0x12341E = some (.aslAbsx 0x1234#16) := by decide

theorem test_decode_php :
    decodeTableWord 8 0x08 = some .php := by decide

theorem test_decode_bpl :
    decodeTableWord 16 0x4210 = some (.bpl 0x42#8) := by decide

theorem test_decode_clc :
    decodeTableWord 8 0x18 = some .clc := by decide

theorem test_decode_jsr :
    decodeTableWord 24 0x123420 = some (.jsr 0x1234#16) := by decide

theorem test_decode_and :
    decodeTableWord 16 0x4221 = some (.andIndx 0x42#8) ∧
    decodeTableWord 16 0x4225 = some (.andZp 0x42#8) ∧
    decodeTableWord 16 0x4229 = some (.andImm 0x42#8) ∧
    decodeTableWord 24 0x12342D = some (.andAbs 0x1234#16) ∧
    decodeTableWord 16 0x4231 = some (.andIndy 0x42#8) ∧
    decodeTableWord 16 0x4235 = some (.andZpx 0x42#8) ∧
    decodeTableWord 24 0x123439 = some (.andAbsy 0x1234#16) ∧
    decodeTableWord 24 0x12343D = some (.andAbsx 0x1234#16) := by decide

theorem test_decode_bit :
    decodeTableWord 16 0x4224 = some (.bitZp 0x42#8) ∧
    decodeTableWord 24 0x12342C = some (.bitAbs 0x1234#16) := by decide

theorem test_decode_rol :
    decodeTableWord 16 0x4226 = some (.rolZp 0x42#8) ∧
    decodeTableWord 8 0x2A = some .rolAcc ∧
    decodeTableWord 24 0x12342E = some (.rolAbs 0x1234#16) ∧
    decodeTableWord 16 0x4236 = some (.rolZpx 0x42#8) ∧
    decodeTableWord 24 0x12343E = some (.rolAbsx 0x1234#16) := by decide

theorem test_decode_plp :
    decodeTableWord 8 0x28 = some .plp := by decide

theorem test_decode_bmi :
    decodeTableWord 16 0x4230 = some (.bmi 0x42#8) := by decide

theorem test_decode_sec :
    decodeTableWord 8 0x38 = some .sec := by decide

theorem test_decode_rti :
    decodeTableWord 8 0x40 = some .rti := by decide

theorem test_decode_eor :
    decodeTableWord 16 0x4241 = some (.eorIndx 0x42#8) ∧
    decodeTableWord 16 0x4245 = some (.eorZp 0x42#8) ∧
    decodeTableWord 16 0x4249 = some (.eorImm 0x42#8) ∧
    decodeTableWord 24 0x12344D = some (.eorAbs 0x1234#16) ∧
    decodeTableWord 16 0x4251 = some (.eorIndy 0x42#8) ∧
    decodeTableWord 16 0x4255 = some (.eorZpx 0x42#8) ∧
    decodeTableWord 24 0x123459 = some (.eorAbsy 0x1234#16) ∧
    decodeTableWord 24 0x12345D = some (.eorAbsx 0x1234#16) := by decide

theorem test_decode_lsr :
    decodeTableWord 16 0x4246 = some (.lsrZp 0x42#8) ∧
    decodeTableWord 8 0x4A = some .lsrAcc ∧
    decodeTableWord 24 0x12344E = some (.lsrAbs 0x1234#16) ∧
    decodeTableWord 16 0x4256 = some (.lsrZpx 0x42#8) ∧
    decodeTableWord 24 0x12345E = some (.lsrAbsx 0x1234#16) := by decide

theorem test_decode_pha :
    decodeTableWord 8 0x48 = some .pha := by decide

theorem test_decode_jmp :
    decodeTableWord 24 0x12344C = some (.jmpAbs 0x1234#16) ∧
    decodeTableWord 24 0x12346C = some (.jmpInd 0x1234#16) := by decide

theorem test_decode_bvc :
    decodeTableWord 16 0x4250 = some (.bvc 0x42#8) := by decide

theorem test_decode_cli :
    decodeTableWord 8 0x58 = some .cli := by decide

theorem test_decode_rts :
    decodeTableWord 8 0x60 = some .rts := by decide

theorem test_decode_adc :
    decodeTableWord 16 0x4261 = some (.adcIndx 0x42#8) ∧
    decodeTableWord 16 0x4265 = some (.adcZp 0x42#8) ∧
    decodeTableWord 16 0x4269 = some (.adcImm 0x42#8) ∧
    decodeTableWord 24 0x12346D = some (.adcAbs 0x1234#16) ∧
    decodeTableWord 16 0x4271 = some (.adcIndy 0x42#8) ∧
    decodeTableWord 16 0x4275 = some (.adcZpx 0x42#8) ∧
    decodeTableWord 24 0x123479 = some (.adcAbsy 0x1234#16) ∧
    decodeTableWord 24 0x12347D = some (.adcAbsx 0x1234#16) := by decide

theorem test_decode_ror :
    decodeTableWord 16 0x4266 = some (.rorZp 0x42#8) ∧
    decodeTableWord 8 0x6A = some .rorAcc ∧
    decodeTableWord 24 0x12346E = some (.rorAbs 0x1234#16) ∧
    decodeTableWord 16 0x4276 = some (.rorZpx 0x42#8) ∧
    decodeTableWord 24 0x12347E = some (.rorAbsx 0x1234#16) := by decide

theorem test_decode_pla :
    decodeTableWord 8 0x68 = some .pla := by decide

theorem test_decode_bvs :
    decodeTableWord 16 0x4270 = some (.bvs 0x42#8) := by decide

theorem test_decode_sei :
    decodeTableWord 8 0x78 = some .sei := by decide

theorem test_decode_sta :
    decodeTableWord 16 0x4281 = some (.staIndx 0x42#8) ∧
    decodeTableWord 16 0x4285 = some (.staZp 0x42#8) ∧
    decodeTableWord 24 0x12348D = some (.staAbs 0x1234#16) ∧
    decodeTableWord 16 0x4291 = some (.staIndy 0x42#8) ∧
    decodeTableWord 16 0x4295 = some (.staZpx 0x42#8) ∧
    decodeTableWord 24 0x123499 = some (.staAbsy 0x1234#16) ∧
    decodeTableWord 24 0x12349D = some (.staAbsx 0x1234#16) := by decide

theorem test_decode_sty :
    decodeTableWord 16 0x4284 = some (.styZp 0x42#8) ∧
    decodeTableWord 24 0x12348C = some (.styAbs 0x1234#16) ∧
    decodeTableWord 16 0x4294 = some (.styZpx 0x42#8) := by decide

theorem test_decode_stx :
    decodeTableWord 16 0x4286 = some (.stxZp 0x42#8) ∧
    decodeTableWord 24 0x12348E = some (.stxAbs 0x1234#16) ∧
    decodeTableWord 16 0x4296 = some (.stxZpy 0x42#8) := by decide

theorem test_decode_dey :
    decodeTableWord 8 0x88 = some .dey := by decide

theorem test_decode_txa :
    decodeTableWord 8 0x8A = some .txa := by decide

theorem test_decode_bcc :
    decodeTableWord 16 0x4290 = some (.bcc 0x42#8) := by decide

theorem test_decode_tya :
    decodeTableWord 8 0x98 = some .tya := by decide

theorem test_decode_txs :
    decodeTableWord 8 0x9A = some .txs := by decide

theorem test_decode_ldy :
    decodeTableWord 16 0x42A0 = some (.ldyImm 0x42#8) ∧
    decodeTableWord 16 0x42A4 = some (.ldyZp 0x42#8) ∧
    decodeTableWord 24 0x1234AC = some (.ldyAbs 0x1234#16) ∧
    decodeTableWord 16 0x42B4 = some (.ldyZpx 0x42#8) ∧
    decodeTableWord 24 0x1234BC = some (.ldyAbsx 0x1234#16) := by decide

theorem test_decode_lda :
    decodeTableWord 16 0x42A1 = some (.ldaIndx 0x42#8) ∧
    decodeTableWord 16 0x42A5 = some (.ldaZp 0x42#8) ∧
    decodeTableWord 16 0x42A9 = some (.ldaImm 0x42#8) ∧
    decodeTableWord 24 0x1234AD = some (.ldaAbs 0x1234#16) ∧
    decodeTableWord 16 0x42B1 = some (.ldaIndy 0x42#8) ∧
    decodeTableWord 16 0x42B5 = some (.ldaZpx 0x42#8) ∧
    decodeTableWord 24 0x1234B9 = some (.ldaAbsy 0x1234#16) ∧
    decodeTableWord 24 0x1234BD = some (.ldaAbsx 0x1234#16) := by decide

theorem test_decode_ldx :
    decodeTableWord 16 0x42A2 = some (.ldxImm 0x42#8) ∧
    decodeTableWord 16 0x42A6 = some (.ldxZp 0x42#8) ∧
    decodeTableWord 24 0x1234AE = some (.ldxAbs 0x1234#16) ∧
    decodeTableWord 16 0x42B6 = some (.ldxZpy 0x42#8) ∧
    decodeTableWord 24 0x1234BE = some (.ldxAbsy 0x1234#16) := by decide

theorem test_decode_tay :
    decodeTableWord 8 0xA8 = some .tay := by decide

theorem test_decode_tax :
    decodeTableWord 8 0xAA = some .tax := by decide

theorem test_decode_bcs :
    decodeTableWord 16 0x42B0 = some (.bcs 0x42#8) := by decide

theorem test_decode_clv :
    decodeTableWord 8 0xB8 = some .clv := by decide

theorem test_decode_tsx :
    decodeTableWord 8 0xBA = some .tsx := by decide

theorem test_decode_cpy :
    decodeTableWord 16 0x42C0 = some (.cpyImm 0x42#8) ∧
    decodeTableWord 16 0x42C4 = some (.cpyZp 0x42#8) ∧
    decodeTableWord 24 0x1234CC = some (.cpyAbs 0x1234#16) := by decide

theorem test_decode_cmp :
    decodeTableWord 16 0x42C1 = some (.cmpIndx 0x42#8) ∧
    decodeTableWord 16 0x42C5 = some (.cmpZp 0x42#8) ∧
    decodeTableWord 16 0x42C9 = some (.cmpImm 0x42#8) ∧
    decodeTableWord 24 0x1234CD = some (.cmpAbs 0x1234#16) ∧
    decodeTableWord 16 0x42D1 = some (.cmpIndy 0x42#8) ∧
    decodeTableWord 16 0x42D5 = some (.cmpZpx 0x42#8) ∧
    decodeTableWord 24 0x1234D9 = some (.cmpAbsy 0x1234#16) ∧
    decodeTableWord 24 0x1234DD = some (.cmpAbsx 0x1234#16) := by decide

theorem test_decode_dec :
    decodeTableWord 16 0x42C6 = some (.decZp 0x42#8) ∧
    decodeTableWord 24 0x1234CE = some (.decAbs 0x1234#16) ∧
    decodeTableWord 16 0x42D6 = some (.decZpx 0x42#8) ∧
    decodeTableWord 24 0x1234DE = some (.decAbsx 0x1234#16) := by decide

theorem test_decode_iny :
    decodeTableWord 8 0xC8 = some .iny := by decide

theorem test_decode_dex :
    decodeTableWord 8 0xCA = some .dex := by decide

theorem test_decode_bne :
    decodeTableWord 16 0x42D0 = some (.bne 0x42#8) := by decide

theorem test_decode_cld :
    decodeTableWord 8 0xD8 = some .cld := by decide

theorem test_decode_cpx :
    decodeTableWord 16 0x42E0 = some (.cpxImm 0x42#8) ∧
    decodeTableWord 16 0x42E4 = some (.cpxZp 0x42#8) ∧
    decodeTableWord 24 0x1234EC = some (.cpxAbs 0x1234#16) := by decide

theorem test_decode_sbc :
    decodeTableWord 16 0x42E1 = some (.sbcIndx 0x42#8) ∧
    decodeTableWord 16 0x42E5 = some (.sbcZp 0x42#8) ∧
    decodeTableWord 16 0x42E9 = some (.sbcImm 0x42#8) ∧
    decodeTableWord 24 0x1234ED = some (.sbcAbs 0x1234#16) ∧
    decodeTableWord 16 0x42F1 = some (.sbcIndy 0x42#8) ∧
    decodeTableWord 16 0x42F5 = some (.sbcZpx 0x42#8) ∧
    decodeTableWord 24 0x1234F9 = some (.sbcAbsy 0x1234#16) ∧
    decodeTableWord 24 0x1234FD = some (.sbcAbsx 0x1234#16) := by decide

theorem test_decode_inc :
    decodeTableWord 16 0x42E6 = some (.incZp 0x42#8) ∧
    decodeTableWord 24 0x1234EE = some (.incAbs 0x1234#16) ∧
    decodeTableWord 16 0x42F6 = some (.incZpx 0x42#8) ∧
    decodeTableWord 24 0x1234FE = some (.incAbsx 0x1234#16) := by decide

theorem test_decode_inx :
    decodeTableWord 8 0xE8 = some .inx := by decide

theorem test_decode_nop :
    decodeTableWord 8 0xEA = some .nop := by decide

theorem test_decode_beq :
    decodeTableWord 16 0x42F0 = some (.beq 0x42#8) := by decide

theorem test_decode_sed :
    decodeTableWord 8 0xF8 = some .sed := by decide

/-! ### Well-formed terms, and ill-formed ones that each check refuses -/

theorem test_wellFormed_ok :
    Instr.wellFormed Config.default (.ldaIndy 0xFE#8) = true ∧ Instr.wellFormed Config.default .rorAcc = true := by decide

theorem test_wellFormed_refuses_indirect_at_page_end :
    Instr.wellFormed Config.default (.ldaIndy 0xFF#8) = false ∧ Instr.wellFormed Config.default (.jmpInd 0x12FF#16) = false := by
  decide

theorem test_wellFormed_refuses_ror_without_ror : Instr.wellFormed oldCfg (.rorZp 0x10#8) = false := by decide

/-! ### One step on the spec's vectors -/

/-- Vector LS-09, `LDA ($FE,X)`. -/
theorem test_lda_ls_09 :
    after { start 0x0600#16 [0xA1#8, 0xFE#8] [(0x0002#16, 0x34#8), (0x0003#16, 0x12#8), (0x1234#16, 0xC0#8)] with x := 0x04#8 }
    (fun t => t.a == 0xC0#8 && t.pc == 0x0602#16 && t.p == fl 0b100000#6) = true := by decide

/-- Vector LS-10, `LDA ($20),Y`. -/
theorem test_lda_ls_10 :
    after { start 0x0600#16 [0xB1#8, 0x20#8] [(0x0020#16, 0xF0#8), (0x0021#16, 0x12#8), (0x1310#16, 0x11#8)] with y := 0x20#8 }
    (fun t => t.a == 0x11#8 && t.pc == 0x0602#16 && t.p == fl 0b000000#6) = true := by decide

/-- Vector LS-16, `LDX $FF,Y`. -/
theorem test_ldx_ls_16 : after { start 0x0600#16 [0xB6#8, 0xFF#8] [(0x0001#16, 0x00#8)] with y := 0x02#8 }
    (fun t => t.pc == 0x0602#16 && t.p == fl 0b000010#6) = true := by decide

/-- Vector LS-17, `LDX $0200,Y`. -/
theorem test_ldx_ls_17 : after { start 0x0600#16 [0xBE#8, 0x00#8, 0x02#8] [(0x0205#16, 0x33#8)] with y := 0x05#8 }
    (fun t => t.x == 0x33#8 && t.pc == 0x0603#16 && t.p == fl 0b000000#6) = true := by decide

/-- Vector LS-20, `LDY $02FF,X`. -/
theorem test_ldy_ls_20 : after { start 0x0600#16 [0xBC#8, 0xFF#8, 0x02#8] [(0x0300#16, 0x00#8)] with x := 0x01#8 }
    (fun t => t.pc == 0x0603#16 && t.p == fl 0b000010#6) = true := by decide

/-- Vector LS-22, `STA $0200,X`. -/
theorem test_sta_ls_22 : after { start 0x0600#16 [0x9D#8, 0x00#8, 0x02#8] [] with a := 0x42#8, x := 0x05#8 }
    (fun t => t.byteAt 0x0205#16 == 0x42#8 && t.pc == 0x0603#16 && t.p == fl 0b000000#6) = true := by decide

/-- Vector LS-24, `STA ($10),Y`. -/
theorem test_sta_ls_24 :
    after { start 0x0600#16 [0x91#8, 0x10#8] [(0x0010#16, 0x01#8), (0x0011#16, 0x03#8)] with a := 0xCD#8, y := 0xFF#8 }
    (fun t => t.byteAt 0x0400#16 == 0xCD#8 && t.pc == 0x0602#16 && t.p == fl 0b000000#6) = true := by decide

/-- Vector LS-27, `STX $F0,Y`. -/
theorem test_stx_ls_27 : after { start 0x0600#16 [0x96#8, 0xF0#8] [] with x := 0x12#8, y := 0x1F#8 }
    (fun t => t.byteAt 0x000F#16 == 0x12#8 && t.pc == 0x0602#16 && t.p == fl 0b000000#6) = true := by decide

/-- Vector LS-28, `STY $1234`. -/
theorem test_sty_ls_28 : after { start 0x0600#16 [0x8C#8, 0x34#8, 0x12#8] [] with y := 0x01#8 }
    (fun t => t.byteAt 0x1234#16 == 0x01#8 && t.pc == 0x0603#16 && t.p == fl 0b000000#6) = true := by decide

/-- Vector TS-01, `TAX`. -/
theorem test_tax_ts_01 : after { start 0x0600#16 [0xAA#8] [] with a := 0x80#8 }
    (fun t => t.x == 0x80#8 && t.pc == 0x0601#16 && t.p == fl 0b100000#6) = true := by decide

/-- Vector TS-02, `TAY`. -/
theorem test_tay_ts_02 : after { start 0x0600#16 [0xA8#8] [] with a := 0x00#8, y := 0x55#8 }
    (fun t => t.y == 0x00#8 && t.pc == 0x0601#16 && t.p == fl 0b000010#6) = true := by decide

/-- Vector TS-03, `TXA`. -/
theorem test_txa_ts_03 : after { start 0x0600#16 [0x8A#8] [] with a := 0xFF#8, x := 0x7F#8, p := fl 0b100000#6 }
    (fun t => t.a == 0x7F#8 && t.pc == 0x0601#16 && t.p == fl 0b000000#6) = true := by decide

/-- Vector TS-04, `TYA`. -/
theorem test_tya_ts_04 : after { start 0x0600#16 [0x98#8] [] with y := 0xFF#8 }
    (fun t => t.a == 0xFF#8 && t.pc == 0x0601#16 && t.p == fl 0b100000#6) = true := by decide

/-- Vector TS-06, `TSX`. -/
theorem test_tsx_ts_06 : after { start 0x0600#16 [0xBA#8] [] with x := 0x01#8, sp := 0x00#8 }
    (fun t => t.x == 0x00#8 && t.pc == 0x0601#16 && t.p == fl 0b000010#6) = true := by decide

/-- Vector TS-07, `TXS`. -/
theorem test_txs_ts_07 : after { start 0x0600#16 [0x9A#8] [] with x := 0x00#8, sp := 0x80#8, p := fl 0b100000#6 }
    (fun t => t.sp == 0x00#8 && t.pc == 0x0601#16 && t.p == fl 0b100000#6) = true := by decide

/-- Vector TS-10, `PHA`. -/
theorem test_pha_ts_10 : after { start 0x0600#16 [0x48#8] [] with a := 0x34#8, sp := 0x00#8 }
    (fun t => t.sp == 0xFF#8 && t.byteAt 0x0100#16 == 0x34#8 && t.pc == 0x0601#16 && t.p == fl 0b000000#6) = true := by decide

/-- Vector TS-11, `PHP`. -/
theorem test_php_ts_11 : after { start 0x0600#16 [0x08#8] [] with sp := 0xFD#8, p := fl 0b000111#6 }
    (fun t => t.sp == 0xFC#8 && t.byteAt 0x01FD#16 == 0x37#8 && t.pc == 0x0601#16 && t.p == fl 0b000111#6) = true := by decide

/-- Vector TS-15, `PLA`. -/
theorem test_pla_ts_15 : after { start 0x0600#16 [0x68#8] [(0x0100#16, 0x80#8)] with sp := 0xFF#8 }
    (fun t => t.a == 0x80#8 && t.sp == 0x00#8 && t.pc == 0x0601#16 && t.p == fl 0b100000#6) = true := by decide

/-- Vector TS-16, `PLP`. -/
theorem test_plp_ts_16 : after { start 0x0600#16 [0x28#8] [(0x01FD#16, 0xC3#8)] with sp := 0xFC#8 }
    (fun t => t.sp == 0xFD#8 && t.pc == 0x0601#16 && t.p == fl 0b110011#6) = true := by decide

/-- Vector LG-01, `AND #$3C`. -/
theorem test_and_lg_01 : after { start 0x0600#16 [0x29#8, 0x3C#8] [] with a := 0xF0#8 }
    (fun t => t.a == 0x30#8 && t.pc == 0x0602#16 && t.p == fl 0b000000#6) = true := by decide

/-- Vector LG-03, `ORA #$80`. -/
theorem test_ora_lg_03 : after { start 0x0600#16 [0x09#8, 0x80#8] [] with a := 0x0F#8 }
    (fun t => t.a == 0x8F#8 && t.pc == 0x0602#16 && t.p == fl 0b100000#6) = true := by decide

/-- Vector LG-07, `EOR $0300,X`. -/
theorem test_eor_lg_07 :
    after { start 0x0600#16 [0x5D#8, 0x00#8, 0x03#8] [(0x0301#16, 0xF0#8)] with a := 0x0F#8, x := 0x01#8 }
    (fun t => t.a == 0xFF#8 && t.pc == 0x0603#16 && t.p == fl 0b100000#6) = true := by decide

/-- Vector LG-08, `BIT $10`. -/
theorem test_bit_lg_08 : after { start 0x0600#16 [0x24#8, 0x10#8] [(0x0010#16, 0xC0#8)] with a := 0x01#8 }
    (fun t => t.pc == 0x0602#16 && t.p == fl 0b110010#6) = true := by decide

/-- Vector AR-18, `ADC #$01`. -/
theorem test_adc_ar_18 :
    after { start 0x0600#16 [0x69#8, 0x01#8] [] with a := 0x99#8, p := fl 0b001000#6, cfg := { Config.default with decimal := .nmos } }
    (fun t => t.a == 0x00#8 && t.pc == 0x0602#16 && t.p == fl 0b101001#6) = true := by decide

/-- Vector AR-19, `ADC #$46`. -/
theorem test_adc_ar_19 : after { start 0x0600#16 [0x69#8, 0x46#8] [] with a := 0x58#8, p := fl 0b001001#6 }
    (fun t => t.a == 0x05#8 && t.pc == 0x0602#16 && t.p.d == true && t.p.i == false && t.p.c == true) = true := by decide

/-- Vector AR-08, `ADC ($10),Y`. -/
theorem test_adc_ar_08 :
    after { start 0x0600#16 [0x71#8, 0x10#8] [(0x0010#16, 0xFF#8), (0x0011#16, 0x02#8), (0x0300#16, 0x02#8)] with a := 0x01#8, y := 0x01#8 }
    (fun t => t.a == 0x03#8 && t.pc == 0x0602#16 && t.p == fl 0b000000#6) = true := by decide

/-- Vector AR-11, `SBC #$01`. -/
theorem test_sbc_ar_11 : after { start 0x0600#16 [0xE9#8, 0x01#8] [] with a := 0x80#8, p := fl 0b000001#6 }
    (fun t => t.a == 0x7F#8 && t.pc == 0x0602#16 && t.p == fl 0b010001#6) = true := by decide

/-- Vector AR-25, `SBC #$01`. -/
theorem test_sbc_ar_25 : after { start 0x0600#16 [0xE9#8, 0x01#8] [] with a := 0x00#8, p := fl 0b001001#6 }
    (fun t => t.a == 0x99#8 && t.pc == 0x0602#16 && t.p.d == true && t.p.i == false && t.p.c == false) = true := by decide

/-- Vector AR-32, `CMP #$01`. -/
theorem test_cmp_ar_32 : after { start 0x0600#16 [0xC9#8, 0x01#8] [] with a := 0x80#8 }
    (fun t => t.pc == 0x0602#16 && t.p == fl 0b000001#6) = true := by decide

/-- Vector AR-34, `CMP #$40`. -/
theorem test_cmp_ar_34 : after { start 0x0600#16 [0xC9#8, 0x40#8] [] with a := 0x40#8, p := fl 0b011000#6 }
    (fun t => t.pc == 0x0602#16 && t.p == fl 0b011011#6) = true := by decide

/-- Vector AR-37, `CPX $10`. -/
theorem test_cpx_ar_37 : after { start 0x0600#16 [0xE4#8, 0x10#8] [(0x0010#16, 0x01#8)] with x := 0x00#8 }
    (fun t => t.pc == 0x0602#16 && t.p == fl 0b100000#6) = true := by decide

/-- Vector AR-38, `CPY #$00`. -/
theorem test_cpy_ar_38 : after { start 0x0600#16 [0xC0#8, 0x00#8] [] with y := 0xFF#8 }
    (fun t => t.pc == 0x0602#16 && t.p == fl 0b100001#6) = true := by decide

/-- Vector ID-01, `INC $10`. -/
theorem test_inc_id_01 : after { start 0x0600#16 [0xE6#8, 0x10#8] [(0x0010#16, 0xFF#8)] with p := fl 0b000001#6 }
    (fun t => t.byteAt 0x0010#16 == 0x00#8 && t.pc == 0x0602#16 && t.p == fl 0b000011#6) = true := by decide

/-- Vector ID-03, `INC $02FF,X`. -/
theorem test_inc_id_03 : after { start 0x0600#16 [0xFE#8, 0xFF#8, 0x02#8] [(0x0300#16, 0x01#8)] with x := 0x01#8 }
    (fun t => t.byteAt 0x0300#16 == 0x02#8 && t.pc == 0x0603#16 && t.p == fl 0b000000#6) = true := by decide

/-- Vector ID-05, `INX`. -/
theorem test_inx_id_05 : after { start 0x0600#16 [0xE8#8] [] with x := 0xFF#8 }
    (fun t => t.x == 0x00#8 && t.pc == 0x0601#16 && t.p == fl 0b000010#6) = true := by decide

/-- Vector ID-06, `INY`. -/
theorem test_iny_id_06 : after { start 0x0600#16 [0xC8#8] [] with y := 0xFF#8 }
    (fun t => t.y == 0x00#8 && t.pc == 0x0601#16 && t.p == fl 0b000010#6) = true := by decide

/-- Vector ID-08, `DEC $10`. -/
theorem test_dec_id_08 : after (start 0x0600#16 [0xC6#8, 0x10#8] [(0x0010#16, 0x00#8)])
    (fun t => t.byteAt 0x0010#16 == 0xFF#8 && t.pc == 0x0602#16 && t.p == fl 0b100000#6) = true := by decide

/-- Vector ID-11, `DEX`. -/
theorem test_dex_id_11 : after { start 0x0600#16 [0xCA#8] [] with x := 0x00#8 }
    (fun t => t.x == 0xFF#8 && t.pc == 0x0601#16 && t.p == fl 0b100000#6) = true := by decide

/-- Vector ID-12, `DEY`. -/
theorem test_dey_id_12 : after { start 0x0600#16 [0x88#8] [] with y := 0x00#8 }
    (fun t => t.y == 0xFF#8 && t.pc == 0x0601#16 && t.p == fl 0b100000#6) = true := by decide

/-- Vector SH-02, `ASL A`. -/
theorem test_asl_sh_02 : after { start 0x0600#16 [0x0A#8] [] with a := 0x80#8 }
    (fun t => t.a == 0x00#8 && t.pc == 0x0601#16 && t.p == fl 0b000011#6) = true := by decide

/-- Vector SH-03, `ASL $10`. -/
theorem test_asl_sh_03 : after { start 0x0600#16 [0x06#8, 0x10#8] [(0x0010#16, 0x40#8)] with p := fl 0b000001#6 }
    (fun t => t.byteAt 0x0010#16 == 0x80#8 && t.pc == 0x0602#16 && t.p == fl 0b100000#6) = true := by decide

/-- Vector SH-06, `LSR A`. -/
theorem test_lsr_sh_06 : after { start 0x0600#16 [0x4A#8] [] with a := 0x80#8, p := fl 0b100000#6 }
    (fun t => t.a == 0x40#8 && t.pc == 0x0601#16 && t.p == fl 0b000000#6) = true := by decide

/-- Vector SH-08, `ROL A`. -/
theorem test_rol_sh_08 : after { start 0x0600#16 [0x2A#8] [] with a := 0x40#8, p := fl 0b000001#6 }
    (fun t => t.a == 0x81#8 && t.pc == 0x0601#16 && t.p == fl 0b100000#6) = true := by decide

/-- Vector SH-10, `ROL $10,X`. -/
theorem test_rol_sh_10 :
    after { start 0x0600#16 [0x36#8, 0x10#8] [(0x0011#16, 0x00#8)] with x := 0x01#8, p := fl 0b000001#6 }
    (fun t => t.byteAt 0x0011#16 == 0x01#8 && t.pc == 0x0602#16 && t.p == fl 0b000000#6) = true := by decide

/-- Vector SH-11, `ROR A`. -/
theorem test_ror_sh_11 : after { start 0x0600#16 [0x6A#8] [] with a := 0x02#8, p := fl 0b000001#6 }
    (fun t => t.a == 0x81#8 && t.pc == 0x0601#16 && t.p == fl 0b100000#6) = true := by decide

/-- Vector SH-13, `ROR $0300,X`. -/
theorem test_ror_sh_13 :
    after { start 0x0600#16 [0x7E#8, 0x00#8, 0x03#8] [(0x0301#16, 0x00#8)] with x := 0x01#8, p := fl 0b000001#6 }
    (fun t => t.byteAt 0x0301#16 == 0x80#8 && t.pc == 0x0603#16 && t.p == fl 0b100000#6) = true := by decide

/-- Vector BJ-01, `BPL $0607`. -/
theorem test_bpl_bj_01 : after (start 0x0600#16 [0x10#8, 0x05#8] [])
    (fun t => t.pc == 0x0607#16 && t.p == fl 0b000000#6) = true := by decide

/-- Vector BJ-04, `BMI $0600`. -/
theorem test_bmi_bj_04 : after { start 0x0600#16 [0x30#8, 0xFE#8] [] with p := fl 0b100000#6 }
    (fun t => t.pc == 0x0600#16 && t.p == fl 0b100000#6) = true := by decide

/-- Vector BJ-05, `BVC $1112`. -/
theorem test_bvc_bj_05 : after (start 0x10F0#16 [0x50#8, 0x20#8] [])
    (fun t => t.pc == 0x1112#16 && t.p == fl 0b000000#6) = true := by decide

/-- Vector BJ-08, `BVS $0612`. -/
theorem test_bvs_bj_08 : after { start 0x0600#16 [0x70#8, 0x10#8] [] with p := fl 0b010000#6 }
    (fun t => t.pc == 0x0612#16 && t.p == fl 0b010000#6) = true := by decide

/-- Vector BJ-09, `BCC $0582`. -/
theorem test_bcc_bj_09 : after (start 0x0600#16 [0x90#8, 0x80#8] [])
    (fun t => t.pc == 0x0582#16 && t.p == fl 0b000000#6) = true := by decide

/-- Vector BJ-10, `BCC $0582`. -/
theorem test_bcc_bj_10 : after { start 0x0600#16 [0x90#8, 0x80#8] [] with p := fl 0b000001#6 }
    (fun t => t.pc == 0x0602#16 && t.p == fl 0b000001#6) = true := by decide

/-- Vector BJ-11, `BCS $0681`. -/
theorem test_bcs_bj_11 : after { start 0x0600#16 [0xB0#8, 0x7F#8] [] with p := fl 0b000001#6 }
    (fun t => t.pc == 0x0681#16 && t.p == fl 0b000001#6) = true := by decide

/-- Vector BJ-13, `BNE $0002`. -/
theorem test_bne_bj_13 : after (start 0xFFFC#16 [0xD0#8, 0x04#8] [])
    (fun t => t.pc == 0x0002#16 && t.p == fl 0b000000#6) = true := by decide

/-- Vector BJ-15, `BEQ $FFFE`. -/
theorem test_beq_bj_15 : after { start 0x0001#16 [0xF0#8, 0xFB#8] [] with p := fl 0b000010#6 }
    (fun t => t.pc == 0xFFFE#16 && t.p == fl 0b000010#6) = true := by decide

/-- Vector BJ-17, `JMP $1234`. -/
theorem test_jmp_bj_17 : after (start 0x0600#16 [0x4C#8, 0x34#8, 0x12#8] [])
    (fun t => t.pc == 0x1234#16 && t.p == fl 0b000000#6) = true := by decide

/-- Vector BJ-18, `JMP ($0200)`. -/
theorem test_jmp_bj_18 : after (start 0x0600#16 [0x6C#8, 0x00#8, 0x02#8] [(0x0200#16, 0x78#8), (0x0201#16, 0x56#8)])
    (fun t => t.pc == 0x5678#16 && t.p == fl 0b000000#6) = true := by decide

/-- Vector BJ-20, `JMP ($12FF)`. -/
theorem test_jmp_bj_20 :
    after { start 0x0600#16 [0x6C#8, 0xFF#8, 0x12#8] [(0x1200#16, 0x40#8), (0x12FF#16, 0x00#8), (0x1300#16, 0x50#8)] with cfg := { Config.default with ptrPageCross := .wrap } }
    (fun t => t.pc == 0x4000#16 && t.p == fl 0b000000#6) = true := by decide

/-- Vector BJ-22, `JSR $8000`. -/
theorem test_jsr_bj_22 : after { start 0x12FE#16 [0x20#8, 0x00#8, 0x80#8] [] with sp := 0x00#8 }
    (fun t => t.sp == 0xFE#8 && t.byteAt 0x0100#16 == 0x13#8 && t.byteAt 0x01FF#16 == 0x00#8 && t.pc == 0x8000#16 && t.p == fl 0b000000#6) = true := by decide

/-- Vector BJ-24, `RTS`. -/
theorem test_rts_bj_24 : after { start 0x0600#16 [0x60#8] [(0x01FE#16, 0xFF#8), (0x01FF#16, 0xFF#8)] with sp := 0xFD#8 }
    (fun t => t.sp == 0xFF#8 && t.pc == 0x0000#16 && t.p == fl 0b000000#6) = true := by decide

/-- Vector FS-01, `CLC`. -/
theorem test_clc_fs_01 : after { start 0x0600#16 [0x18#8] [] with p := fl 0b111111#6 }
    (fun t => t.pc == 0x0601#16 && t.p == fl 0b111110#6) = true := by decide

/-- Vector FS-02, `SEC`. -/
theorem test_sec_fs_02 : after (start 0x0600#16 [0x38#8] [])
    (fun t => t.pc == 0x0601#16 && t.p == fl 0b000001#6) = true := by decide

/-- Vector FS-03, `CLI`. -/
theorem test_cli_fs_03 : after { start 0x0600#16 [0x58#8] [] with p := fl 0b111111#6 }
    (fun t => t.pc == 0x0601#16 && t.p == fl 0b111011#6) = true := by decide

/-- Vector FS-04, `SEI`. -/
theorem test_sei_fs_04 : after (start 0x0600#16 [0x78#8] [])
    (fun t => t.pc == 0x0601#16 && t.p == fl 0b000100#6) = true := by decide

/-- Vector FS-05, `CLD`. -/
theorem test_cld_fs_05 : after { start 0x0600#16 [0xD8#8] [] with p := fl 0b111111#6 }
    (fun t => t.pc == 0x0601#16 && t.p == fl 0b110111#6) = true := by decide

/-- Vector FS-06, `SED`. -/
theorem test_sed_fs_06 : after (start 0x0600#16 [0xF8#8] [])
    (fun t => t.pc == 0x0601#16 && t.p == fl 0b001000#6) = true := by decide

/-- Vector FS-07, `CLV`. -/
theorem test_clv_fs_07 : after { start 0x0600#16 [0xB8#8] [] with p := fl 0b111111#6 }
    (fun t => t.pc == 0x0601#16 && t.p == fl 0b101111#6) = true := by decide

/-- Vector FS-08, `NOP`. -/
theorem test_nop_fs_08 :
    after { start 0x0600#16 [0xEA#8] [] with a := 0x12#8, x := 0x34#8, y := 0x56#8, p := fl 0b101010#6 }
    (fun t => t.pc == 0x0601#16 && t.p == fl 0b101010#6) = true := by decide

/-- Vector FS-09, `BRK`. -/
theorem test_brk_fs_09 :
    after { start 0x0600#16 [0x00#8] [(0xFFFE#16, 0x00#8), (0xFFFF#16, 0x80#8)] with p := fl 0b000001#6 }
    (fun t => t.sp == 0xFC#8 && t.byteAt 0x01FF#16 == 0x06#8 && t.byteAt 0x01FE#16 == 0x02#8 && t.byteAt 0x01FD#16 == 0x31#8 && t.pc == 0x8000#16 && t.p == fl 0b000101#6) = true := by decide

/-- Vector FS-10, `BRK`. -/
theorem test_brk_fs_10 : after { start 0xFFFF#16 [0x00#8] [(0xFFFE#16, 0x34#8)] with sp := 0x01#8, p := fl 0b111100#6 }
    (fun t => t.sp == 0xFE#8 && t.byteAt 0x0101#16 == 0x00#8 && t.byteAt 0x0100#16 == 0x01#8 && t.byteAt 0x01FF#16 == 0xFC#8 && t.pc == 0x0034#16 && t.p == fl 0b111100#6) = true := by decide

/-- Vector FS-12, `RTI`. -/
theorem test_rti_fs_12 :
    after { start 0x0600#16 [0x40#8] [(0x01FD#16, 0xCF#8), (0x01FE#16, 0xFF#8), (0x01FF#16, 0xFF#8)] with sp := 0xFC#8 }
    (fun t => t.sp == 0xFF#8 && t.pc == 0xFFFF#16 && t.p == fl 0b111111#6) = true := by decide

/-! ### Faults, interrupts and reset -/

/-- Vector EN-02. -/
theorem test_illegal_en_02 : stops (start 0x0600#16 [0xFF#8] []) (.illegalOpcode 0xFF#8 0x0600#16) = true := by decide

/-- Vector SH-14: no ROR before August 1976. -/
theorem test_ror_sh_14 :
    stops { start 0x0600#16 [0x6A#8] [] with a := 0x02#8, cfg := oldCfg } (.illegalOpcode 0x6A#8 0x0600#16) = true := by
  decide

/-- Vector BJ-19: the pointer crosses a page. -/
theorem test_jmp_bj_19 :
    stops (start 0x0600#16 [0x6C#8, 0xFF#8, 0x12#8] [(0x1200#16, 0x40#8), (0x1300#16, 0x50#8)]) (.pointerPageCross 0x12FF#16) =
      true := by decide

/-- The vectors of section 3 of 95_test_vectors.md. -/
def vectors : List (Word × Byte) := [(0xFFFB#16, 0x90#8), (0xFFFD#16, 0x80#8), (0xFFFF#16, 0xA0#8)]

/-- Vector IN-01. -/
theorem test_irq_in_01 :
    after { start 0x0612#16 [0xEA#8] vectors with p := fl 0b000001#6, iPoll := false, inputs := [lines true false false] }
    (fun t => t.byteAt 0x01FF#16 == 0x06#8 && t.byteAt 0x01FE#16 == 0x12#8 && t.byteAt 0x01FD#16 == 0x21#8 &&
      t.sp == 0xFC#8 && t.pc == 0xA000#16 && t.p == fl 0b000101#6 && t.iPoll) = true := by decide

/-- Vector IN-03: an edge of NMI, whatever I is. -/
theorem test_nmi_in_03 :
    after { start 0x0700#16 [0xEA#8] vectors with
      sp := 0x80#8, p := fl 0b101100#6, iPoll := true, inputs := [lines false true false] }
    (fun t => t.byteAt 0x0180#16 == 0x07#8 && t.byteAt 0x017F#16 == 0x00#8 && t.byteAt 0x017E#16 == 0xAC#8 &&
      t.sp == 0x7D#8 && t.pc == 0x9000#16 && t.p == fl 0b101100#6 && t.nmiPending == false) = true := by decide

/-- Vector IN-08: after SEI, i_poll is still 0, and the IRQ is taken with I = 1 in the pushed byte. -/
theorem test_irq_in_08 :
    after { start 0x0601#16 [0xEA#8] vectors with p := fl 0b000100#6, iPoll := false, inputs := [lines true false false] }
    (fun t => t.byteAt 0x01FF#16 == 0x06#8 && t.byteAt 0x01FE#16 == 0x01#8 && t.byteAt 0x01FD#16 == 0x24#8) = true := by decide

/-- Vector RS-01: reset, whatever else is asserted. -/
theorem test_reset_rs_01 :
    after { start 0x0612#16 [0xEA#8] vectors with nmiPending := true, inputs := [lines true true true] }
    (fun t => t.pc == 0x8000#16 && t.p.i && t.iPoll && t.nmiPending == false) = true := by decide

/-- R46, R250: what the spec gives for reset. -/
theorem test_reset_state : State.reset.p.i = true ∧ State.reset.iPoll = true ∧ State.reset.nmiPending = false ∧
    Memory.wf State.reset.mem := by decide

/-- R28: without AB8, PHA writes page zero. -/
theorem test_ab8_pha :
    after { start 0x0600#16 [0x48#8] [] with
      a := 0x12#8, cfg := { Config.default with platform := { Platform.allRam with aliases := [⟨0x0100, 0x0100, 0x0000⟩] } } }
    (fun t => t.mem.read 0x00FF == 0x12#8 && t.mem.read 0x01FF == 0x00#8) = true := by decide

/-- The step fetches and runs the word that `withFetchWord` places: LDA #$42 first after reset. -/
theorem test_withFetchWord : after (State.reset.withFetchWord 16 0x42A9) (fun t => t.a == 0x42#8 && t.pc == 0x0002#16) = true := by
  decide

/-- A write of what an unlisted cell reads as removes the entry. -/
theorem test_memory_canonical : (Memory.write [(5, 0x01#8)] 5 Memory.unlisted) = [] ∧
    Memory.write [(5, 0x01#8)] 3 0x02#8 = [(3, 0x02#8), (5, 0x01#8)] := by decide

/-! ### States that meet the hypotheses of the statements

Each theorem is named after the statement of Certificates/Slice0/Obligations.lean whose hypotheses it meets. -/

/-- A plain state at 0600 with all flags clear. -/
def plain : State := start 0x0600#16 [] []

/-- `plain` on the board. -/
def onBoard : State := { plain with cfg := boardCfg }

/-- `plain` on the board that asks for faults. -/
def onStrict : State := { plain with cfg := strictCfg }

/-- `plain` with D = 1 and A = 99 in BCD. -/
def decimalState : State := { plain with a := 0x99#8, p := fl 0b001001#6 }

theorem witness_IllegalOpcodesStopTheModel : ∀ op ∈ [0x02#8, 0xFF#8],
    nextEvent (start 0xFFFF#16 [op] []).boundary (start 0xFFFF#16 [op] []).sampled = .instruction ∧
    (start 0xFFFF#16 [op] []).IsMemory 0xFFFF#16 ∧ (start 0xFFFF#16 [op] []).byteAt 0xFFFF#16 ∈ illegalOpcodes := by decide

theorem witness_FirstByteFixesLengthAndMnemonic :
    decode [0x20#8, 0x10#8, 0x06#8] = .ok (.jsr 0x0610#16, []) ∧
    decode [0x20#8, 0x00#8, 0x80#8, 0xEA#8] = .ok (.jsr 0x8000#16, [0xEA#8]) := ⟨rfl, rfl⟩

/-- A JSR at FFFE, whose bytes wrap to 0000. -/
def wrappedJsr : State := start 0xFFFE#16 [0x20#8, 0x10#8, 0x06#8] []

theorem witness_StepRunsDecodedInstruction :
    nextEvent wrappedJsr.boundary wrappedJsr.sampled = .instruction ∧
    (∀ k, k < (Instr.jsr 0x0610#16).length → wrappedJsr.IsMemory (wrappedJsr.pc + BitVec.ofNat 16 k)) ∧
    decode [wrappedJsr.byteAt 0xFFFE#16, wrappedJsr.byteAt 0xFFFF#16, wrappedJsr.byteAt 0x0000#16] =
      .ok (.jsr 0x0610#16, []) := ⟨by decide, by decide, rfl⟩

/-- A store to a device is the next instruction, and an NMI edge arrives that is not taken. -/
def deviceStore : State :=
  { start 0x0600#16 [0x8D#8, 0xFF#8, 0xD0#8] [] with
    cfg := boardCfg, inputs := [⟨false, true, false, false⟩], events := [.read 0xD800#16] }

/-- The board's pages A0 to AF name cells that name themselves (R54). -/
theorem board_alias : board.AliasIdempotent := by
  refine aliasIdempotent_of fun r hr c h1 h2 => ?_
  obtain rfl := List.mem_singleton.mp hr
  simp only [Platform.aliasOf, List.find?_eq_none]
  intro q hq
  obtain rfl := List.mem_singleton.mp hq
  simp at h1 h2 ⊢
  omega

theorem witness_EveryStepKeepsInvariant : deviceStore.Inv ∧ ∃ t, step deviceStore = .next t := by
  refine ⟨⟨by decide, board_alias, fun e he => ?_⟩, _, rfl⟩
  obtain rfl := List.mem_singleton.mp he
  exact ⟨true, by decide⟩

theorem witness_StepOnlyConsumesEnvironment : ∃ t, step deviceStore = .next t := ⟨_, rfl⟩

theorem witness_EveryInstructionCompletes :
    ({ plain with cfg := freeCfg }).cfg.NeverStops ∧ ¬ ({ plain with cfg := freeCfg }).JsrOverwritesOperand := by decide

theorem witness_OnlyIllegalOpcodesStopTheMachine : ({ plain with cfg := freeCfg }).cfg.NeverStops := by decide

/-- A JSR whose operand bytes are the stack cells 01FE and 01FF. -/
def overlappingJsr : State := start 0x01FD#16 [0x20#8, 0x00#8, 0x80#8] []

theorem witness_EveryStopHasItsCause :
    exec .rorAcc { plain with cfg := oldCfg } = .fault (.illegalOpcode 0x6A#8 0x0600#16) ∧
    exec (.jmpInd 0x12FF#16) plain = .fault (.pointerPageCross 0x12FF#16) ∧
    exec (.ldaAbs 0xCFFF#16) onStrict = .fault (.unpopulatedAccess 0xCFFF#16) ∧
    exec (.incAbs 0xFFFF#16) onStrict = .fault (.writeToRom 0xFFFF#16) ∧
    exec (.ldaAbsx 0xD9FF#16) onBoard = .refused (.deviceExtraAccess 0xD9FF#16) ∧
    exec (.jsr 0x8000#16) overlappingJsr = .refused (.jsrOverwritesOperand 0x01FD#16) := by
  refine ⟨rfl, rfl, rfl, rfl, ?_, rfl⟩
  have near : onBoard.nearSideEffects 0xD9FF#16 = true := List.any_eq_true.mpr ⟨255, by simp, by decide⟩
  have clash : onBoard.extraClash 0xD9FF#16 = true := by rw [State.extraClash, near]; rfl
  show withOperand (.mem (.absx 0xD9FF#16)) loadA onBoard = _
  rw [withOperand, Operand.value, effectiveAddr, guardExtra, if_pos (by exact clash)]
  rfl

theorem witness_PcAdvancesByLength :
    (Instr.ldaAbs 0x1234#16).assignsPc = false ∧ ∃ t, exec (.ldaAbs 0x1234#16) { plain with pc := 0xFFFE#16 } = .next t :=
  ⟨by decide, _, rfl⟩

/-- A form of the table whose operand reads as something in the state. -/
abbrev Reads (forms : Byte → Word → List (Instr × Operand)) (n : Byte) (nn : Word) (i : Instr) (o : Operand) (s : State) :
    Prop := (i, o) ∈ forms n nn ∧ ∃ m s1, o.value s = .next (m, s1)

/-- A form of the table whose operand does not read for a fault. -/
abbrev ReadFaults (forms : Byte → Word → List (Instr × Operand)) (n : Byte) (nn : Word) (i : Instr) (o : Operand)
    (s : State) : Prop := (i, o) ∈ forms n nn ∧ ∃ e, o.value s = .fault e

theorem witness_LoadsCopyTheirOperand :
    Reads Forms.lda 0xFE#8 0#16 (.ldaIndy 0xFE#8) (.mem (.indy 0xFE#8)) plain ∧
    Reads Forms.ldx 0xFF#8 0#16 (.ldxImm 0xFF#8) (.imm 0xFF#8) plain ∧
    Reads Forms.ldy 0#8 0xD0FF#16 (.ldyAbs 0xD0FF#16) (.mem (.abs 0xD0FF#16)) onBoard ∧
    ReadFaults Forms.lda 0xFF#8 0#16 (.ldaIndy 0xFF#8) (.mem (.indy 0xFF#8)) plain ∧
    ReadFaults Forms.ldx 0#8 0xC000#16 (.ldxAbs 0xC000#16) (.mem (.abs 0xC000#16)) onStrict ∧
    ReadFaults Forms.ldy 0#8 0xCFFF#16 (.ldyAbs 0xCFFF#16) (.mem (.abs 0xCFFF#16)) onStrict :=
  ⟨⟨by decide, _, _, rfl⟩, ⟨by decide, _, _, rfl⟩, ⟨by decide, _, _, rfl⟩, ⟨by decide, _, rfl⟩, ⟨by decide, _, rfl⟩,
    ⟨by decide, _, rfl⟩⟩

/-- A form of the table whose effective address is reached. -/
abbrev Reaches (forms : Byte → Word → List (Instr × AddrForm)) (n : Byte) (nn : Word) (i : Instr) (f : AddrForm)
    (s : State) (ea : Word) : Prop := (i, f) ∈ forms n nn ∧ ∃ s1, effectiveAddr f s = .next (ea, s1)

theorem witness_StoresWriteOnlyTheirCell :
    (Reaches Forms.sta 0#8 0xFFFF#16 (.staAbsx 0xFFFF#16) (.absx 0xFFFF#16) plain 0xFFFF#16 ∧ plain.MayStore 0xFFFF#16) ∧
    (Reaches Forms.stx 0xFF#8 0#16 (.stxZpy 0xFF#8) (.zpy 0xFF#8) { plain with y := 0x02#8 } 0x0001#16 ∧
      ({ plain with y := 0x02#8 }).MayStore 0x0001#16) ∧
    (Reaches Forms.sty 0#8 0xD000#16 (.styAbs 0xD000#16) (.abs 0xD000#16) onBoard 0xD000#16 ∧ onBoard.MayStore 0xD000#16) ∧
    (Reaches Forms.sta 0#8 0xF000#16 (.staAbs 0xF000#16) (.abs 0xF000#16) onStrict 0xF000#16 ∧ ¬ onStrict.MayStore 0xF000#16) ∧
    ((Instr.staIndx 0xFF#8, AddrForm.indx 0xFF#8) ∈ Forms.sta 0xFF#8 0#16 ∧
      ∃ e, effectiveAddr (.indx 0xFF#8) plain = .fault e) :=
  ⟨⟨⟨by decide, _, rfl⟩, by decide⟩, ⟨⟨by decide, _, rfl⟩, by decide⟩, ⟨⟨by decide, _, rfl⟩, by decide⟩,
    ⟨⟨by decide, _, rfl⟩, by decide⟩, by decide, _, rfl⟩

/-- X at the boundaries of the forms: FE + 0 is the last pointer of page zero that does not cross. -/
def pointers : State := start 0x0600#16 [] [(0x00FE#16, 0xFF#8), (0x00FF#16, 0xFF#8)]

theorem witness_OperandFormsReachTheirAddress :
    pointers.extraClash 0x00FF#16 = false ∧ pointers.extraClash 0xFFFF#16 = false ∧
    (0xFE#8).toNat ≠ 255 ∧ ((0xFE#8).toNat + pointers.x.toNat) % 256 ≠ 255 ∧ pointers.IsMemory 0x00FE#16 ∧
    pointers.IsMemory 0x00FF#16 ∧ effectiveAddr (.indy 0xFE#8) pointers = .next (0xFFFF#16, pointers) ∧
    pointers.IsMemory 0xFFFF#16 := ⟨by decide, by decide, by decide, by decide, by decide, by decide, rfl, by decide⟩

theorem witness_PointerPageCrossAsParameterSays :
    (0xFFFF#16).toNat % 256 = 255 ∧ plain.IsMemory 0xFFFF#16 ∧ plain.cfg.ptrPageCross = .fault ∧
    (0x00FF#16).toNat % 256 = 255 ∧ ({ plain with cfg := freeCfg }).IsMemory 0x00FF#16 ∧ freeCfg.ptrPageCross = .wrap ∧
    ({ plain with cfg := freeCfg }).IsMemory 0x0000#16 := by decide

theorem witness_PushesWriteTheStackCell : ({ plain with sp := 0x00#8 }).MayStore 0x0100#16 := by decide

theorem witness_PullsReadTheStackCell : ∃ m s1, Machine.read 0x0100#16 plain = .next (m, s1) := ⟨_, _, rfl⟩

theorem witness_LogicCombinesAWithOperand :
    Reads Forms.and 0xFE#8 0#16 (.andIndx 0xFE#8) (.mem (.indx 0xFE#8)) plain ∧
    Reads Forms.ora 0#8 0xFFFF#16 (.oraAbsy 0xFFFF#16) (.mem (.absy 0xFFFF#16)) plain ∧
    Reads Forms.eor 0xFF#8 0#16 (.eorZpx 0xFF#8) (.mem (.zpx 0xFF#8)) plain ∧
    ReadFaults Forms.and 0xFF#8 0#16 (.andIndx 0xFF#8) (.mem (.indx 0xFF#8)) plain ∧
    ReadFaults Forms.ora 0#8 0xC000#16 (.oraAbs 0xC000#16) (.mem (.abs 0xC000#16)) onStrict ∧
    ReadFaults Forms.eor 0#8 0xCFFF#16 (.eorAbs 0xCFFF#16) (.mem (.abs 0xCFFF#16)) onStrict :=
  ⟨⟨by decide, _, _, rfl⟩, ⟨by decide, _, _, rfl⟩, ⟨by decide, _, _, rfl⟩, ⟨by decide, _, rfl⟩, ⟨by decide, _, rfl⟩,
    ⟨by decide, _, rfl⟩⟩

theorem witness_BitCopiesOperandBits :
    Reads Forms.bit 0#8 0xD800#16 (.bitAbs 0xD800#16) (.mem (.abs 0xD800#16)) onBoard ∧
    ReadFaults Forms.bit 0#8 0xC000#16 (.bitAbs 0xC000#16) (.mem (.abs 0xC000#16)) onStrict :=
  ⟨⟨by decide, _, _, rfl⟩, by decide, _, rfl⟩

theorem witness_AdcBinaryAddsWithCarry :
    (Reads Forms.adc 0xFF#8 0#16 (.adcImm 0xFF#8) (.imm 0xFF#8) plain ∧ plain.p.d = false) ∧
    ReadFaults Forms.adc 0xFF#8 0#16 (.adcIndy 0xFF#8) (.mem (.indy 0xFF#8)) plain :=
  ⟨⟨⟨by decide, _, _, rfl⟩, by decide⟩, by decide, _, rfl⟩

theorem witness_SbcBinarySubtractsWithBorrow :
    (Reads Forms.sbc 0x80#8 0#16 (.sbcImm 0x80#8) (.imm 0x80#8) plain ∧ plain.p.d = false) ∧
    ReadFaults Forms.sbc 0xFF#8 0#16 (.sbcIndx 0xFF#8) (.mem (.indx 0xFF#8)) plain :=
  ⟨⟨⟨by decide, _, _, rfl⟩, by decide⟩, by decide, _, rfl⟩

theorem witness_DecimalStrictOnValidBcd :
    Operand.value (.imm 0x99#8) decimalState = .next (0x99#8, decimalState) ∧ decimalState.p.d = true ∧
    decimalState.cfg.decimal = .strict ∧ validBcd decimalState.a = true ∧ validBcd 0x99#8 = true ∧
    (Instr.adcImm 0x99#8, Operand.imm 0x99#8) ∈ Forms.adc 0x99#8 0#16 ∧
    (Instr.sbcImm 0x99#8, Operand.imm 0x99#8) ∈ Forms.sbc 0x99#8 0#16 :=
  ⟨rfl, rfl, rfl, rfl, rfl, by decide, by decide⟩

theorem witness_DecimalStrictOnInvalidBcd :
    (Instr.sbcImm 0x0A#8, Operand.imm 0x0A#8) ∈ Forms.adc 0x0A#8 0#16 ++ Forms.sbc 0x0A#8 0#16 ∧
    Operand.value (.imm 0x0A#8) decimalState = .next (0x0A#8, decimalState) ∧ decimalState.p.d = true ∧
    decimalState.cfg.decimal = .strict ∧ (validBcd decimalState.a && validBcd 0x0A#8) = false :=
  ⟨by decide, rfl, rfl, rfl, rfl⟩

/-- `decimalState` on a chip that follows the NMOS algorithm. -/
def nmosState : State := { decimalState with cfg := { Config.default with decimal := .nmos } }

theorem witness_DecimalNmosAdcAsTheRuleComputes :
    (Reads Forms.adc 0xFF#8 0#16 (.adcImm 0xFF#8) (.imm 0xFF#8) nmosState ∧ nmosState.p.d = true ∧
      nmosState.cfg.decimal = .nmos) ∧
    ReadFaults Forms.adc 0xFF#8 0#16 (.adcIndy 0xFF#8) (.mem (.indy 0xFF#8)) nmosState :=
  ⟨⟨⟨by decide, _, _, rfl⟩, rfl, rfl⟩, by decide, _, rfl⟩

theorem witness_DecimalNmosSbcAsTheRuleComputes :
    (Reads Forms.sbc 0xFF#8 0#16 (.sbcImm 0xFF#8) (.imm 0xFF#8) nmosState ∧ nmosState.p.d = true ∧
      nmosState.cfg.decimal = .nmos) ∧
    ReadFaults Forms.sbc 0xFF#8 0#16 (.sbcIndy 0xFF#8) (.mem (.indy 0xFF#8)) nmosState :=
  ⟨⟨⟨by decide, _, _, rfl⟩, rfl, rfl⟩, by decide, _, rfl⟩

theorem witness_DecimalNmosAgreesWithStrict :
    nmosState.p.d = true ∧ validBcd nmosState.a = true ∧ validBcd 0x00#8 = true ∧ validBcd 0x99#8 = true := by decide

theorem witness_ComparesAreUnsigned :
    Reads Forms.cmp 0xFE#8 0#16 (.cmpIndy 0xFE#8) (.mem (.indy 0xFE#8)) plain ∧
    Reads Forms.cpx 0x00#8 0#16 (.cpxImm 0x00#8) (.imm 0x00#8) plain ∧
    Reads Forms.cpy 0#8 0xFFFF#16 (.cpyAbs 0xFFFF#16) (.mem (.abs 0xFFFF#16)) plain ∧
    ReadFaults Forms.cmp 0xFF#8 0#16 (.cmpIndy 0xFF#8) (.mem (.indy 0xFF#8)) plain ∧
    ReadFaults Forms.cpx 0#8 0xC000#16 (.cpxAbs 0xC000#16) (.mem (.abs 0xC000#16)) onStrict ∧
    ReadFaults Forms.cpy 0#8 0xCFFF#16 (.cpyAbs 0xCFFF#16) (.mem (.abs 0xCFFF#16)) onStrict :=
  ⟨⟨by decide, _, _, rfl⟩, ⟨by decide, _, _, rfl⟩, ⟨by decide, _, _, rfl⟩, ⟨by decide, _, rfl⟩, ⟨by decide, _, rfl⟩,
    ⟨by decide, _, rfl⟩⟩

/-- A = n, where BCC is not taken and the second branch of a pair is reached. -/
theorem witness_BranchesAfterCompareTestUnsignedOrder :
    ∃ t u, exec (.cmpImm 0x00#8) plain = .next t ∧ exec (.bcc 0x80#8) t = .next u ∧
      ¬ plain.a.toNat < (0x00#8).toNat := ⟨_, _, rfl, rfl, by decide⟩

theorem witness_IncDecMemoryByOne :
    (Reaches Forms.inc 0xFF#8 0#16 (.incZpx 0xFF#8) (.zpx 0xFF#8) plain 0x00FF#16 ∧ plain.extraClash 0x00FF#16 = false ∧
      (∃ m s2, Machine.read 0x00FF#16 plain = .next (m, s2)) ∧ plain.MayStore 0x00FF#16) ∧
    (Reaches Forms.dec 0#8 0xF000#16 (.decAbs 0xF000#16) (.abs 0xF000#16) onStrict 0xF000#16 ∧
      onStrict.extraClash 0xF000#16 = false ∧ (∃ m s2, Machine.read 0xF000#16 onStrict = .next (m, s2)) ∧
      ¬ onStrict.MayStore 0xF000#16) ∧
    (Reaches Forms.dec 0#8 0xC000#16 (.decAbs 0xC000#16) (.abs 0xC000#16) onStrict 0xC000#16 ∧
      onStrict.extraClash 0xC000#16 = false ∧ ∃ e, Machine.read 0xC000#16 onStrict = .fault e) :=
  ⟨⟨⟨by decide, _, rfl⟩, by decide, ⟨_, _, rfl⟩, by decide⟩, ⟨⟨by decide, _, rfl⟩, by decide, ⟨_, _, rfl⟩, by decide⟩,
    ⟨by decide, _, rfl⟩, by decide, _, rfl⟩

theorem witness_ShiftsOfAMoveOnePlace : plain.cfg.hasRor = true := by decide

theorem witness_ShiftsOfMemoryMoveOnePlace :
    (Reaches Forms.asl 0#8 0x12FF#16 (.aslAbsx 0x12FF#16) (.absx 0x12FF#16) plain 0x12FF#16 ∧
      Reaches Forms.lsr 0xFF#8 0#16 (.lsrZp 0xFF#8) (.zp 0xFF#8) plain 0x00FF#16 ∧
      Reaches Forms.rol 0xFF#8 0#16 (.rolZpx 0xFF#8) (.zpx 0xFF#8) plain 0x00FF#16 ∧
      Reaches Forms.ror 0#8 0x12FF#16 (.rorAbs 0x12FF#16) (.abs 0x12FF#16) plain 0x12FF#16) ∧
    plain.cfg.hasRor = true ∧ plain.extraClash 0x12FF#16 = false ∧ plain.extraClash 0x00FF#16 = false ∧
    (∃ m s2, Machine.read 0x12FF#16 plain = .next (m, s2)) ∧ (∃ m s2, Machine.read 0x00FF#16 plain = .next (m, s2)) ∧
    plain.MayStore 0x12FF#16 ∧ plain.MayStore 0x00FF#16 :=
  ⟨⟨⟨by decide, _, rfl⟩, ⟨by decide, _, rfl⟩, ⟨by decide, _, rfl⟩, ⟨by decide, _, rfl⟩⟩, rfl, by decide, by decide,
    ⟨_, _, rfl⟩, ⟨_, _, rfl⟩, by decide, by decide⟩

theorem witness_RorIsIllegalWithoutRor : ({ plain with cfg := oldCfg }).cfg.hasRor = false := by decide

theorem witness_JumpsGoToTheirTarget :
    (∃ t s1, readPtr 0x12FE#16 plain = .next (t, s1)) ∧ (∃ e, readPtr 0x12FF#16 plain = .fault e) ∧
    (0x12FE#16).toNat % 256 ≠ 255 ∧ plain.IsMemory 0x12FE#16 ∧ plain.IsMemory 0x12FF#16 :=
  ⟨⟨_, _, rfl⟩, ⟨_, rfl⟩, by decide, by decide, by decide⟩

/-- `plain` on a board that asks for faults on ROM, with one ROM cell at `a`. -/
def romAt (a : Nat) : State :=
  { plain with cfg := { Config.default with platform := { Platform.allRam with
    regions := [⟨a, 1, .rom⟩], onRomWrite := .fault } } }

/-- `plain` with S = 00, so that the second push wraps to 01FF. -/
def lowStack : State := { plain with sp := 0x00#8 }

/-- The overlap; stack cells in RAM, at the ends of the stack; the first and the second push to ROM. -/
theorem witness_JsrPushesItsLastByteAddress :
    overlappingJsr.JsrOverwritesOperand ∧
    (¬ lowStack.JsrOverwritesOperand ∧ lowStack.IsRam 0x0100#16 ∧ lowStack.IsRam 0x01FF#16 ∧ lowStack.MayStore 0x0100#16 ∧
      lowStack.MayStore 0x01FF#16) ∧
    (¬ (romAt 0x01FF).JsrOverwritesOperand ∧ ¬ (romAt 0x01FF).MayStore 0x01FF#16) ∧
    ¬ (romAt 0x01FE).JsrOverwritesOperand ∧ (romAt 0x01FE).MayStore 0x01FF#16 ∧ ¬ (romAt 0x01FE).MayStore 0x01FE#16 :=
  ⟨by decide, ⟨by decide, by decide, by decide, by decide, by decide⟩, ⟨by decide, by decide⟩, by decide, by decide,
    by decide⟩

/-- S at its ends: the cells above FE and above FF. -/
theorem witness_RtsReturnsPastThePulledAddress : ∀ sp ∈ [0xFE#8, 0xFF#8],
    ({ plain with sp := sp }).IsMemory (stackAddr (sp + 1#8)) ∧ ({ plain with sp := sp }).IsMemory (stackAddr (sp + 2#8)) := by
  decide

theorem witness_BrkEntersThroughTheIrqVector :
    ({ plain with sp := 0x01#8 }).StackRam ∧ ({ plain with sp := 0x01#8 }).IsMemory 0xFFFE#16 ∧
    ({ plain with sp := 0x01#8 }).IsMemory 0xFFFF#16 := by decide

theorem witness_RtiRestoresFlagsAndPc :
    plain.IsMemory (stackAddr (plain.sp + 1#8)) ∧ plain.IsMemory (stackAddr (plain.sp + 2#8)) ∧
    plain.IsMemory (stackAddr (plain.sp + 3#8)) := by decide

theorem witness_FlagsChangeOnlyAsTabled :
    (∃ t, exec .lsrAcc plain = .next t) ∧ (∃ t, exec .brk plain = .next t) ∧ ∃ t, exec (.staAbs 0xD000#16) onBoard = .next t :=
  ⟨⟨_, rfl⟩, ⟨_, rfl⟩, _, rfl⟩

theorem witness_RegistersChangeOnlyByTheirWriters :
    (∃ t, exec (.incAbs 0x0200#16) plain = .next t) ∧ (Instr.incAbs 0x0200#16).writesA = false ∧
    (Instr.incAbs 0x0200#16).writesX = false ∧ (Instr.incAbs 0x0200#16).writesY = false ∧
    (Instr.incAbs 0x0200#16).writesS = false := ⟨⟨_, rfl⟩, by decide, by decide, by decide, by decide⟩

theorem witness_MemoryChangesOnlyByWriters :
    (∃ t, exec (.ldaIndy 0xFE#8) pointers = .next t) ∧ (Instr.ldaIndy 0xFE#8).writesMemory = false ∧
    (∃ t, exec .aslAcc pointers = .next t) ∧ Instr.aslAcc.writesMemory = false :=
  ⟨⟨_, rfl⟩, by decide, ⟨_, rfl⟩, by decide⟩

/-- S = 01, so that BRK wraps its third push to 01FF; 01FE is the nearest other cell. -/
theorem witness_PushesChangeOnlyStackCells :
    (∃ t, exec .pha { plain with sp := 0x01#8 } = .next t) ∧ (∃ t, exec .php { plain with sp := 0x01#8 } = .next t) ∧
    (∃ t, exec (.jsr 0x8000#16) { plain with sp := 0x01#8 } = .next t) ∧ (∃ t, exec .brk { plain with sp := 0x01#8 } = .next t) ∧
    plain.cell 0x01FE#16 ≠ plain.cell (stackAddr 0x01#8) ∧ plain.cell 0x01FE#16 ≠ plain.cell (stackAddr 0x00#8) ∧
    plain.cell 0x01FE#16 ≠ plain.cell (stackAddr 0xFF#8) :=
  ⟨⟨_, rfl⟩, ⟨_, rfl⟩, ⟨_, rfl⟩, ⟨_, rfl⟩, by decide, by decide, by decide⟩

/-- An NMI edge at this boundary, and the line still asserted at the next one; an IRQ is asserted too. -/
def nmiState : State :=
  { start 0x0700#16 [0xEA#8] vectors with
    sp := 0x01#8, inputs := [lines true true false], environment := .hold (lines false true false) }

theorem witness_NmiEntryWhateverTheMask :
    nmiState.boundary.res = false ∧ nmiState.boundary.take = true ∧ (nmiState.boundary.nmi = true ∧ nmiState.nmiPrev = false) ∧
    nmiState.StackRam ∧ nmiState.IsMemory 0xFFFA#16 ∧ nmiState.IsMemory 0xFFFB#16 := by decide

/-- An IRQ is asserted and not masked. -/
def irqState : State :=
  { start 0x0612#16 [0xEA#8] vectors with sp := 0x00#8, iPoll := false, inputs := [lines true false false] }

theorem witness_IrqEntryWhenUnmasked :
    irqState.boundary.res = false ∧ irqState.boundary.take = true ∧ irqState.sampled.nmiPending = false ∧
    irqState.boundary.irq = true ∧ irqState.iPoll = false ∧ irqState.StackRam ∧ irqState.IsMemory 0xFFFE#16 ∧
    irqState.IsMemory 0xFFFF#16 := by decide

/-- The IRQ is masked; and the schedule waits although an NMI is pending. -/
theorem witness_NoInterruptWhereNoneIsTakable :
    (({ irqState with iPoll := true }).boundary.res = false ∧ ({ irqState with iPoll := true }).sampled.nmiPending = false ∧
      ({ irqState with iPoll := true }).iPoll = true) ∧
    ({ nmiState with inputs := [⟨true, true, false, false⟩] }).boundary.res = false ∧
    ({ nmiState with inputs := [⟨true, true, false, false⟩] }).boundary.take = false := by decide

/-- The NMI is taken, and at the next two boundaries the line is still asserted. -/
theorem witness_HeldNmiLineIsTakenOnce :
    nmiState.boundary.nmi = true ∧ nextEvent nmiState.boundary nmiState.sampled = .nmi ∧
    ∃ t, step nmiState = .next t ∧ t.boundary.nmi = true ∧ t.nmiPrev = true ∧ t.nmiPending = false ∧
      ∃ u, step t = .next u ∧ u.boundary.nmi = true := ⟨by decide, by decide, _, rfl, rfl, rfl, rfl, _, rfl, rfl⟩

theorem witness_IPollLagsOnlyAfterCliSeiPlp :
    (∃ t, exec .cli plain = .next t) ∧ (∃ t, exec .sei plain = .next t) ∧ (∃ t, exec .plp plain = .next t) ∧
    ∃ t, exec .rti plain = .next t := ⟨⟨_, rfl⟩, ⟨_, rfl⟩, ⟨_, rfl⟩, _, rfl⟩

theorem witness_ResetStepKeepsMemory :
    ({ nmiState with inputs := [lines true true true] }).boundary.res = true ∧
    ({ nmiState with inputs := [lines true true true] }).IsMemory 0xFFFC#16 ∧
    ({ nmiState with inputs := [lines true true true] }).IsMemory 0xFFFD#16 := by decide

theorem witness_RtsUndoesJsr :
    ({ plain with sp := 0x00#8 }).IsRam (stackAddr 0x00#8) ∧ ({ plain with sp := 0x00#8 }).IsRam (stackAddr 0xFF#8) ∧
    plain.cell (stackAddr 0x00#8) ≠ plain.cell (stackAddr 0xFF#8) ∧
    ∃ t, exec (.jsr 0x8000#16) { plain with sp := 0x00#8 } = .next t := ⟨by decide, by decide, by decide, _, rfl⟩

theorem witness_RtiUndoesExceptionEntry :
    (nmiState.StackRam ∧ nmiState.StackDistinct ∧ (∃ t, exec .brk nmiState = .next t) ∧
      nextEvent nmiState.boundary nmiState.sampled = .nmi ∧ ∃ t, step nmiState = .next t) ∧
    irqState.StackRam ∧ irqState.StackDistinct ∧ nextEvent irqState.boundary irqState.sampled = .irq ∧
    ∃ t, step irqState = .next t :=
  ⟨⟨by decide, by decide, ⟨_, rfl⟩, by decide, _, rfl⟩, by decide, by decide, by decide, _, rfl⟩

/-- Each kind at the ends of its range. -/
theorem witness_PlatformAnswersEachAccess :
    onBoard.kindAt 0xBFFF#16 = .ram ∧ onBoard.kindAt 0xF000#16 = .rom ∧ onBoard.kindAt 0xFFFF#16 = .rom ∧
    onBoard.kindAt 0xD0FF#16 = .device false ∧ onBoard.kindAt 0xD800#16 = .device true ∧
    onBoard.kindAt 0xC000#16 = .unpopulated ∧ onBoard.kindAt 0xCFFF#16 = .unpopulated ∧
    onBoard.cfg.platform.onNoneRead = .draw ∧ onStrict.kindAt 0xC000#16 = .unpopulated ∧
    onStrict.cfg.platform.onNoneRead = .fault ∧ onBoard.cfg.platform.onRomWrite = .ignore ∧
    onStrict.kindAt 0xF000#16 = .rom ∧ onStrict.cfg.platform.onRomWrite = .fault := by decide

/-- A000 names the cell B000. -/
theorem witness_ReadGivesMostRecentWrite :
    onBoard.kindAt 0xA000#16 = .ram ∧ (∃ t, write 0xA000#16 0x12#8 onBoard = .next t) ∧
    onBoard.cell 0xB000#16 = onBoard.cell 0xA000#16 ∧ Memory.wf onBoard.mem ∧
    onBoard.cell 0xAFFF#16 ≠ onBoard.cell 0xA000#16 ∧ onBoard.kindAt 0xAFFF#16 = .ram ∧
    onBoard.cell 0xF000#16 ≠ onBoard.cell 0xA000#16 ∧ onBoard.kindAt 0xF000#16 = .rom ∧
    onBoard.cfg.platform.AliasIdempotent :=
  ⟨by decide, ⟨_, rfl⟩, by decide, by decide, by decide, by decide, by decide, by decide, board_alias⟩

/-- A system that ignores AB8. -/
def withoutAb8 : State :=
  { plain with cfg := { Config.default with platform := { Platform.allRam with
    aliases := [{ base := 0x0100, size := 0x0100, target := 0x0000 }] } } }

theorem witness_StackMovesToPageZeroWithoutAb8 :
    withoutAb8.cfg.platform.aliases = [{ base := 0x0100, size := 0x0100, target := 0x0000 }] ∧
    withoutAb8.IsRam (zext withoutAb8.sp) := by decide

/-- On the board, a pointer at 10 to D900. -/
def nearPointer : State := { start 0x0600#16 [] [(0x0011#16, 0xD9#8)] with cfg := boardCfg }

theorem nearPointer_near : nearPointer.NearDevice 0xD900#16 := ⟨0xD8FF#16, by decide, by decide⟩

theorem nearPointer_refused : effectiveAddr (.indx 0x10#8) nearPointer = .refused (.deviceExtraAccess 0xD900#16) := by
  have hp : readPtr (zext (0x10#8 + nearPointer.x)) nearPointer = .next (0xD900#16, nearPointer) := rfl
  have hc : nearPointer.extraClash 0xD900#16 = true := extraClash_iff.mpr ⟨rfl, nearPointer_near⟩
  simp only [effectiveAddr, hp, bindNext_next, guardExtra_clash hc]

/-- D9FF is the last address that is near the device at D800 to D8FF. -/
theorem witness_DeviceNeighboursAreRefused :
    onBoard.cfg.extraBus = .refuse ∧ onBoard.NearDevice 0xD800#16 ∧ onBoard.NearDevice 0xD9FF#16 ∧
    (∃ u, readPtr 0x0010#16 nearPointer = .next (0xD900#16, u)) ∧ nearPointer.NearDevice 0xD900#16 ∧
    ((Instr.ldaIndx 0x10#8, Operand.mem (.indx 0x10#8)) ∈ Forms.reads 0x10#8 0#16 ∧
      effectiveAddr (.indx 0x10#8) nearPointer = .refused (.deviceExtraAccess 0xD900#16)) ∧
    ((Instr.incAbs 0xD9FF#16, AddrForm.abs 0xD9FF#16) ∈ Forms.modifies 0#8 0xD9FF#16 ∧
      effectiveAddr (.abs 0xD9FF#16) onBoard = .next (0xD9FF#16, onBoard)) ∧
    (Instr.staAbs 0xD800#16, AddrForm.abs 0xD800#16) ∈ Forms.stores 0#8 0xD800#16 :=
  ⟨by decide, ⟨0xD800#16, by decide, by decide⟩, ⟨0xD8FF#16, by decide, by decide⟩, ⟨_, rfl⟩,
    nearPointer_near, ⟨by decide, nearPointer_refused⟩, ⟨by decide, rfl⟩, by decide⟩

/-- STA $0604 at 0600, before LDA nn: the store overwrites the low operand byte. -/
def selfModifying : State :=
  { start 0x0600#16 [0x8D#8, 0x04#8, 0x06#8, 0xAD#8, 0x00#8, 0x02#8] [] with a := 0xE8#8 }

theorem witness_StoreIsSeenByTheNextFetch :
    (Instr.staAbs 0x0604#16, AddrForm.abs 0x0604#16) ∈ Forms.sta 0#8 0x0604#16 ∧
    effectiveAddr (.abs 0x0604#16) selfModifying = .next (0x0604#16, selfModifying) ∧ selfModifying.IsRam 0x0604#16 ∧
    (∀ k, k < 3 → selfModifying.IsMemory (0x0603#16 + BitVec.ofNat 16 k)) ∧
    decode [0xAD#8, selfModifying.a, 0x02#8] = .ok (.ldaAbs 0x02E8#16, []) ∧
    (∃ t, exec (.staAbs 0x0604#16) selfModifying = .next t ∧ nextEvent t.boundary t.sampled = .instruction) ∧
    (Instr.incAbs 0x0603#16, AddrForm.abs 0x0603#16) ∈ Forms.modifies 0#8 0x0603#16 ∧
    ∃ t, exec (.incAbs 0x0603#16) selfModifying = .next t ∧ nextEvent t.boundary t.sampled = .instruction ∧
      decode [t.byteAt 0x0603#16, 0x00#8, 0x02#8] = .ok (.ldxAbs 0x0200#16, []) :=
  ⟨by decide, rfl, by decide, by decide, rfl, ⟨_, rfl, by decide⟩, by decide, _, rfl, by decide, rfl⟩

/-- A NOP before a JMP to itself. -/
theorem witness_RunsStopAtEndOfRun :
    ∃ t, run State.atSelfJump 2 (start 0x0600#16 [0xEA#8, 0x4C#8, 0x01#8, 0x06#8] []) = .ended t ∧ t.pc = 0x0601#16 :=
  ⟨_, rfl, rfl⟩

/-- R220: a held reset line resets at every boundary; a free environment is the functions of time. -/
theorem test_environment :
    after { plain with environment := .hold (lines false false true) } (fun t => t.boundary.res && t.time == 1) = true ∧
    ({ plain with environment := .free, time := 7 }).boundary.irq = Config.irqLine 7 := ⟨by decide, rfl⟩

end Sys2Proof.Tests
end

section
/-! What the decoder's answer says of the bytes at PC, and which opcodes a chip has (R80 to R89, R6). -/

namespace Sys2Proof.Machine

/-! ### Decoded bytes -/

/-- The bytes that decode to an instruction begin with its encoding (R80 to R84). -/
theorem eq_encode_append_of_decode {bytes rest : List Byte} {i : Instr} (h : decode bytes = .ok (i, rest)) :
    bytes = encode i ++ rest := by
  cases bytes with
  | nil => cases h
  | cons opcode tail =>
    simp only [decode] at h
    split at h
    · cases h
    · next j hs =>
      cases h
      rw [show encode i = [opcode] from shapeOf_fits hs]; rfl
    · next f hs =>
      have fits : ∀ n, encode (f n) = [opcode, n] := shapeOf_fits hs
      split at h <;> cases h
      rw [fits]; rfl
    · next f hs =>
      have fits : ∀ nn, encode (f nn) = opcode :: wordBytes nn := shapeOf_fits hs
      split at h <;> cases h
      simp [fits, wordBytes]

theorem encode_length (i : Instr) : (encode i).length = i.length := by cases i <;> rfl

/-- The three bytes from PC on: the longest instruction that can stand there. -/
abbrev State.bytesAtPc (s : State) : List Byte := [s.byteAt s.pc, s.byteAt (s.pc + 1#16), s.byteAt (s.pc + 2#16)]

/-- Where the bytes at PC begin with an encoding, its bytes stand at PC one after the other. -/
theorem byteAt_of_bytesAtPc {s : State} {i : Instr} {rest : List Byte} (h : s.bytesAtPc = encode i ++ rest) (k : Nat)
    (hk : k < (encode i).length) : s.byteAt (s.pc + BitVec.ofNat 16 k) = (encode i)[k] := by
  have hget : s.bytesAtPc[k]? = some (encode i)[k] := by
    rw [h, List.getElem?_append_left hk, List.getElem?_eq_getElem hk]
  rcases k with _ | _ | _ | k
  · rw [BitVec.add_zero]; exact Option.some.inj hget
  · exact Option.some.inj hget
  · exact Option.some.inj hget
  · cases hget

/-! ### The opcodes of a chip -/

/-- The blank cells of the chart are the opcodes that R89 lists. -/
theorem mem_illegalOpcodes_of_shapeOf {op : Byte} (h : shapeOf op = none) : op ∈ illegalOpcodes := by
  have blank : ∀ b : Byte, (shapeOf b).isNone = true → b ∈ illegalOpcodes := by decide
  exact blank op (by rw [h]; rfl)

theorem shapeOnChip_with (op : Byte) : shapeOnChip true op = shapeOf op := by simp [shapeOnChip]

/-- The instruction is of the mnemonic ROR on a chip that does not have it (R6). -/
abbrev State.LacksRor (s : State) (i : Instr) : Prop := i.mnemonic = .ror ∧ s.cfg.hasRor = false

theorem opcode_mem_rorOpcodes (i : Instr) : i.opcode ∈ rorOpcodes ↔ i.mnemonic = .ror :=
  decide_eq_decide.mp (by cases i <;> rfl)

/-- Without ROR a chip lacks the opcodes of that mnemonic and no others (R6). -/
theorem shapeOnChip_opcode (i : Instr) (s : State) :
    shapeOnChip s.cfg.hasRor i.opcode = if s.LacksRor i then none else shapeOf i.opcode := by
  simp only [shapeOnChip, State.LacksRor, opcode_mem_rorOpcodes, and_comm]

end Sys2Proof.Machine
end

section
/-! How a run under END_OF_RUN stops (R264), by the first step: the states before the end, the end, and the bound. -/

namespace Sys2Proof.Machine

section RunEnd

variable {endOfRun : State → Bool} {j k : Nat} {s t u : State}

/-- END_OF_RUN holds of no state that fewer than `k` steps lead to. -/
def QuietFor (endOfRun : State → Bool) (k : Nat) (s : State) : Prop :=
  ∀ i u, i < k → Steps i s u → endOfRun u = false

theorem quietFor_zero : QuietFor endOfRun 0 s := fun _ _ h => absurd h (Nat.not_lt_zero _)

theorem quietFor_succ :
    QuietFor endOfRun (k + 1) s ↔ endOfRun s = false ∧ ∀ u, step s = .next u → QuietFor endOfRun k u := by
  constructor
  · intro h
    exact ⟨h 0 s (Nat.succ_pos k) rfl, fun u hs i v hi hv => h (i + 1) v (Nat.succ_lt_succ hi) ⟨u, hs, hv⟩⟩
  · rintro ⟨h0, h⟩ i v hi hv
    cases i with
    | zero => exact steps_zero.mp hv ▸ h0
    | succ i =>
      obtain ⟨u, hs, hv⟩ := steps_succ.mp hv
      exact h u hs i v (Nat.lt_of_succ_lt_succ hi) hv

/-- `t` is the first state from `s` on of which END_OF_RUN holds, and `j` steps lead to it. -/
def EndsAfter (endOfRun : State → Bool) (j : Nat) (s t : State) : Prop :=
  Steps j s t ∧ endOfRun t = true ∧ QuietFor endOfRun j s

theorem endsAfter_zero : EndsAfter endOfRun 0 s t ↔ s = t ∧ endOfRun t = true := by
  simp [EndsAfter, quietFor_zero]

theorem endsAfter_succ :
    EndsAfter endOfRun (j + 1) s t ↔ endOfRun s = false ∧ ∃ u, step s = .next u ∧ EndsAfter endOfRun j u t := by
  constructor
  · rintro ⟨⟨u, hs, hsteps⟩, ht, hq⟩
    obtain ⟨h0, hq⟩ := quietFor_succ.mp hq
    exact ⟨h0, u, hs, hsteps, ht, hq u hs⟩
  · rintro ⟨h0, u, hs, hsteps, ht, hq⟩
    refine ⟨⟨u, hs, hsteps⟩, ht, quietFor_succ.mpr ⟨h0, fun v hv => ?_⟩⟩
    obtain rfl : u = v := Host.Outcome.next.inj (hs.symm.trans hv)
    exact hq

/-- Where END_OF_RUN holds already, the first end is here. -/
theorem endsAfter_of_end (h : endOfRun s = true) : EndsAfter endOfRun j s t ↔ j = 0 ∧ s = t := by
  cases j with
  | zero => simpa [endsAfter_zero] using fun he => he ▸ h
  | succ j => simp [endsAfter_succ, h]

/-- Where END_OF_RUN does not hold, the first end is one step further than from the next state. -/
theorem exists_endsAfter_succ (h : endOfRun s = false) :
    (∃ j, j ≤ k + 1 ∧ EndsAfter endOfRun j s t) ↔ ∃ u, step s = .next u ∧ ∃ j, j ≤ k ∧ EndsAfter endOfRun j u t := by
  constructor
  · rintro ⟨_ | j, hle, hj⟩
    · obtain ⟨rfl, ht⟩ := endsAfter_zero.mp hj
      exact absurd ht (by simp [h])
    · obtain ⟨-, u, hs, hu⟩ := endsAfter_succ.mp hj
      exact ⟨u, hs, j, Nat.le_of_succ_le_succ hle, hu⟩
  · rintro ⟨u, hs, j, hle, hj⟩
    exact ⟨j + 1, Nat.succ_le_succ hle, endsAfter_succ.mpr ⟨h, u, hs, hj⟩⟩

theorem run_eq_ended_iff : run endOfRun k s = .ended t ↔ ∃ j, j ≤ k ∧ EndsAfter endOfRun j s t := by
  cases h : endOfRun s with
  | true => simp [run_done h, endsAfter_of_end h]
  | false =>
    induction k generalizing s with
    | zero => simpa [run_zero h, endsAfter_zero] using fun he => he ▸ h
    | succ k ih =>
      rw [exists_endsAfter_succ h]
      cases hs : step s with
      | next u =>
        simp only [run_next h hs, Host.Outcome.next.injEq, exists_eq_left']
        cases hu : endOfRun u with
        | true => simp [run_done hu, endsAfter_of_end hu]
        | false => exact ih hu
      | fault e => simp [run_fault h hs]
      | refused r => simp [run_refused h hs]

theorem run_eq_running_iff : run endOfRun k s = .running t ↔ Steps k s t ∧ QuietFor endOfRun (k + 1) s := by
  induction k generalizing s with
  | zero =>
    cases h : endOfRun s with
    | true => simp [run_done h, quietFor_succ, h]
    | false => simp [run_zero h, quietFor_succ, quietFor_zero, h]
  | succ k ih =>
    rw [steps_succ, quietFor_succ]
    cases h : endOfRun s with
    | true => simp [run_done h]
    | false =>
      cases hs : step s with
      | next u => simp [run_next h hs, ih]
      | fault e => simp [run_fault h hs]
      | refused r => simp [run_refused h hs]

/-- A longer bound gives the same end. -/
theorem run_ended_mono (h : run endOfRun k s = .ended t) (m : Nat) : run endOfRun (k + m) s = .ended t := by
  obtain ⟨j, hj, he⟩ := run_eq_ended_iff.mp h
  exact run_eq_ended_iff.mpr ⟨j, hj.trans (Nat.le_add_right k m), he⟩

end RunEnd

/-! ### The ends that R264 suggests -/

theorem atAddress_iff {a : Word} {s : State} : s.atAddress a = true ↔ s.pc = a := by simp [State.atAddress]

theorem atSelfJump_iff {s : State} : s.atSelfJump = true ↔ ∃ rest, decode s.bytesAtPc = .ok (.jmpAbs s.pc, rest) := by
  simp only [State.atSelfJump, State.bytesAtPc, Bool.and_eq_true, beq_iff_eq]
  constructor
  · rintro ⟨hop, htarget⟩
    exact ⟨[], by rw [hop]; exact congrArg (fun nn => Except.ok (Instr.jmpAbs nn, [])) htarget⟩
  · rintro ⟨rest, h⟩
    have hb := eq_encode_append_of_decode h
    simp only [encode, Instr.opcode, Instr.form, Form.bytes, AddrForm.bytes, wordBytes, List.cons_append,
      List.nil_append, List.cons.injEq] at hb
    obtain ⟨hop, hlo, hhi, -⟩ := hb
    rw [hop, hlo, hhi]
    exact ⟨rfl, word_high_low s.pc⟩

theorem atBrk_iff {s : State} : s.atBrk = true ↔ ∃ rest, decode s.bytesAtPc = .ok (.brk, rest) := by
  simp only [State.atBrk, State.bytesAtPc, beq_iff_eq]
  constructor
  · intro hop
    exact ⟨_, by rw [hop]; rfl⟩
  · rintro ⟨rest, h⟩
    exact (List.cons.inj (eq_encode_append_of_decode h)).1

/-- Settles O60: a run is characterised by induction on its bound, from what one step of it does; the ends that R264
suggests by what the decoder answers. -/
theorem runsStopAtEndOfRun : Obligations.RunsStopAtEndOfRun := by
  refine ⟨fun endOfRun k s t => ⟨run_eq_ended_iff, ?_, run_ended_mono⟩, fun _ _ => atAddress_iff,
    fun _ => atSelfJump_iff, fun _ => atBrk_iff⟩
  simp only [run_eq_running_iff, QuietFor, Nat.lt_succ_iff]

end Sys2Proof.Machine
end

section
/-! Why an access stops the model (R14, R54, R62, R101): each fault and refusal with the parameter that asks for it. -/

namespace Sys2Proof.Machine

/-- The faults that a memory access or a pointer can raise, each with its cause. -/
inductive AccessFault (s : State) : Fault → Prop where
  | pointerPageCross {a : Word} (hlow : lowByte a = 0xFF#8) (hp : s.cfg.ptrPageCross = .fault) :
    AccessFault s (.pointerPageCross a)
  | unpopulatedAccess {a : Word} (hk : s.kindAt a = .unpopulated) (hp : s.cfg.platform.onNoneRead = .fault) :
    AccessFault s (.unpopulatedAccess a)
  | writeToRom {a : Word} (hk : s.kindAt a = .rom) (hp : s.cfg.platform.onRomWrite = .fault) :
    AccessFault s (.writeToRom a)

/-- The refusal that an access can raise, with its cause (U12). -/
inductive AccessRefusal (s : State) : Refusal → Prop where
  | deviceExtraAccess {a : Word} (hp : s.cfg.extraBus = .refuse) (hnear : s.NearDevice a) :
    AccessRefusal s (.deviceExtraAccess a)

/-- If the outcome is a stop, an access of the machine caused it. -/
structure StopsByAccess {α : Type} (s : State) (r : Host.Outcome α Fault Refusal) : Prop where
  ofFault : ∀ e, r = .fault e → AccessFault s e
  ofRefused : ∀ q, r = .refused q → AccessRefusal s q

section Rules

variable {α β : Type} {s t : State}

/-- What answers at an address is in the parameters alone. -/
theorem kindAt_of_cfg_eq (h : t.cfg = s.cfg) (a : Word) : t.kindAt a = s.kindAt a := by
  simp only [State.kindAt, State.cell, h]

theorem nearDevice_of_cfg_eq (h : t.cfg = s.cfg) {a : Word} : t.NearDevice a ↔ s.NearDevice a := by
  simp only [State.NearDevice, kindAt_of_cfg_eq h]

theorem StopsByAccess.of_cfg_eq {r : Host.Outcome α Fault Refusal} (hr : StopsByAccess t r) (h : t.cfg = s.cfg) :
    StopsByAccess s r where
  ofFault e he := by
    cases hr.ofFault e he with
    | pointerPageCross hlow hp => exact .pointerPageCross hlow (h ▸ hp)
    | unpopulatedAccess hk hp => exact .unpopulatedAccess (kindAt_of_cfg_eq h _ ▸ hk) (h ▸ hp)
    | writeToRom hk hp => exact .writeToRom (kindAt_of_cfg_eq h _ ▸ hk) (h ▸ hp)
  ofRefused q hq := by
    cases hr.ofRefused q hq with
    | deviceExtraAccess hp hnear => exact .deviceExtraAccess (h ▸ hp) ((nearDevice_of_cfg_eq h).mp hnear)

theorem stopsByAccess_next (v : α) : StopsByAccess s (.next v) := ⟨nofun, nofun⟩

theorem stopsByAccess_bindNext {r : Host.Outcome α Fault Refusal} {f : α → Host.Outcome β Fault Refusal}
    (hr : StopsByAccess s r) (hf : ∀ v, r = .next v → StopsByAccess s (f v)) : StopsByAccess s (bindNext r f) := by
  cases r with
  | next v => exact hf v rfl
  | fault e => exact ⟨fun e' he => hr.ofFault e' (by cases he; rfl), nofun⟩
  | refused q => exact ⟨nofun, fun q' hq => hr.ofRefused q' (by cases hq; rfl)⟩

/-- No parameter asks for a stop: no access stops. -/
theorem StopsByAccess.completes {r : Host.Outcome α Fault Refusal} (hr : StopsByAccess s r) (h : s.cfg.NeverStops) :
    ∃ v, r = .next v := by
  obtain ⟨-, hptr, hextra, hnone, hrom⟩ := h
  cases r with
  | next v => exact ⟨v, rfl⟩
  | fault e =>
    cases hr.ofFault e rfl with
    | pointerPageCross _ hp => exact absurd (hptr.symm.trans hp) (by decide)
    | unpopulatedAccess _ hp => exact absurd (hnone.symm.trans hp) (by decide)
    | writeToRom _ hp => exact absurd (hrom.symm.trans hp) (by decide)
  | refused q =>
    cases hr.ofRefused q rfl with
    | deviceExtraAccess hp _ => exact absurd (hextra.symm.trans hp) (by decide)

end Rules

/-! ### The shared operations -/

theorem read_stops (a : Word) (s : State) : StopsByAccess s (read a s) where
  ofFault e he := by
    obtain ⟨rfl, hk, hp⟩ := read_fault he
    exact .unpopulatedAccess hk hp
  ofRefused _ hq := absurd hq read_not_refused

theorem write_stops (a : Word) (v : Byte) (s : State) : StopsByAccess s (write a v s) where
  ofFault e he := by
    obtain ⟨rfl, hk, hp⟩ := write_fault he
    exact .writeToRom hk hp
  ofRefused _ hq := absurd hq write_not_refused

theorem guardExtra_stops (ea : Word) (s : State) : StopsByAccess s (guardExtra ea s) := by
  cases hc : s.extraClash ea with
  | false => rw [guardExtra_clear hc]; exact stopsByAccess_next _
  | true =>
    obtain ⟨hp, hnear⟩ := extraClash_iff.mp hc
    rw [guardExtra_clash hc]
    exact ⟨nofun, fun q hq => by cases hq; exact .deviceExtraAccess hp hnear⟩

theorem read16_stops (a : Word) (s : State) : StopsByAccess s (read16 a s) :=
  stopsByAccess_bindNext (read_stops a s) fun (_, u) hu =>
    stopsByAccess_bindNext ((read_stops _ u).of_cfg_eq (read_spec hu).cfg_eq) fun _ _ => stopsByAccess_next _

theorem readPtr_stops (p : Word) (s : State) : StopsByAccess s (readPtr p s) :=
  stopsByAccess_bindNext (read_stops p s) fun (_, u) hu => by
    refine StopsByAccess.of_cfg_eq (t := u) ?_ (read_spec hu).cfg_eq
    simp only
    split
    · next hcross => exact ⟨fun e he => by cases he; exact .pointerPageCross hcross.1 hcross.2, nofun⟩
    · exact stopsByAccess_bindNext (read_stops _ u) fun _ _ => stopsByAccess_next _

theorem effectiveAddr_stops (f : AddrForm) (s : State) : StopsByAccess s (effectiveAddr f s) := by
  cases f with
  | zp n => exact stopsByAccess_next _
  | abs nn => exact stopsByAccess_next _
  | zpx n => exact guardExtra_stops _ s
  | zpy n => exact guardExtra_stops _ s
  | absx nn => exact guardExtra_stops _ s
  | absy nn => exact guardExtra_stops _ s
  | indx n =>
    exact stopsByAccess_bindNext (readPtr_stops _ s) fun (_, u) hu =>
      (guardExtra_stops _ u).of_cfg_eq (readPtr_spec hu).cfg_eq
  | indy n =>
    exact stopsByAccess_bindNext (readPtr_stops _ s) fun (_, u) hu =>
      (guardExtra_stops _ u).of_cfg_eq (readPtr_spec hu).cfg_eq

theorem value_stops (o : Operand) (s : State) : StopsByAccess s (o.value s) := by
  cases o with
  | imm n => exact stopsByAccess_next _
  | mem f =>
    exact stopsByAccess_bindNext (effectiveAddr_stops f s) fun (ea, u) hu =>
      (read_stops ea u).of_cfg_eq (effectiveAddr_spec hu).cfg_eq

theorem push_stops (v : Byte) (s : State) : StopsByAccess s (push v s) :=
  stopsByAccess_bindNext (write_stops _ v s) fun _ _ => stopsByAccess_next _

theorem pushWord_stops (v : Word) (s : State) : StopsByAccess s (pushWord v s) :=
  stopsByAccess_bindNext (push_stops _ s) fun u hu => (push_stops _ u).of_cfg_eq (push_spec hu).1.cfg_eq

theorem pull_stops (s : State) : StopsByAccess s (pull s) := (read_stops _ _).of_cfg_eq rfl

theorem pullWord_stops (s : State) : StopsByAccess s (pullWord s) :=
  stopsByAccess_bindNext (pull_stops s) fun (_, u) hu =>
    stopsByAccess_bindNext ((pull_stops u).of_cfg_eq (pull_storeStep hu).1.cfg_eq) fun _ _ => stopsByAccess_next _

theorem enter_stops (ret : Word) (b : Bool) (vector : Word) (s : State) : StopsByAccess s (enter ret b vector s) :=
  stopsByAccess_bindNext (pushWord_stops ret s) fun u hu => by
    refine StopsByAccess.of_cfg_eq (t := u) ?_ (pushWord_spec hu).1.cfg_eq
    refine stopsByAccess_bindNext (push_stops _ u) fun w hw => ?_
    refine StopsByAccess.of_cfg_eq (t := w) ?_ (push_spec hw).1.cfg_eq
    exact stopsByAccess_bindNext ((read16_stops vector _).of_cfg_eq rfl) fun _ _ => stopsByAccess_next _

theorem returnFrom_stops (s : State) : StopsByAccess s (returnFrom s) :=
  stopsByAccess_bindNext (pull_stops s) fun (_, u) hu => by
    refine StopsByAccess.of_cfg_eq (t := u) ?_ (pull_storeStep hu).1.cfg_eq
    exact stopsByAccess_bindNext ((pullWord_stops _).of_cfg_eq rfl) fun _ _ => stopsByAccess_next _

theorem resetStep_stops (s : State) : StopsByAccess s (resetStep s) :=
  stopsByAccess_bindNext ((read16_stops resVector _).of_cfg_eq rfl) fun _ _ => stopsByAccess_next _

/-! ### The shapes of instructions -/

theorem withOperand_stops (o : Operand) (effect : Byte → State → State) (s : State) :
    StopsByAccess s (withOperand o effect s) :=
  stopsByAccess_bindNext (value_stops o s) fun _ _ => stopsByAccess_next _

theorem storeAt_stops (f : AddrForm) (v : Byte) (s : State) : StopsByAccess s (storeAt f v s) :=
  stopsByAccess_bindNext (effectiveAddr_stops f s) fun (ea, u) hu => by
    refine StopsByAccess.of_cfg_eq (t := u) ?_ (effectiveAddr_spec hu).cfg_eq
    exact stopsByAccess_bindNext (write_stops ea v u) fun _ _ => stopsByAccess_next _

theorem modifyAt_stops (f : AddrForm) (op : Byte → Flags → Byte × Flags) (s : State) :
    StopsByAccess s (modifyAt f op s) :=
  stopsByAccess_bindNext (effectiveAddr_stops f s) fun (ea, u) hu => by
    refine StopsByAccess.of_cfg_eq (t := u) ?_ (effectiveAddr_spec hu).cfg_eq
    refine stopsByAccess_bindNext (guardExtra_stops ea u) fun (ea', u') hg => ?_
    obtain ⟨-, rfl, rfl⟩ := guardExtra_eq_next.mp hg
    refine stopsByAccess_bindNext (read_stops _ _) fun (m, w) hw => ?_
    refine StopsByAccess.of_cfg_eq (t := w) ?_ (read_spec hw).cfg_eq
    exact stopsByAccess_bindNext (write_stops _ _ w) fun _ _ => stopsByAccess_next _

end Sys2Proof.Machine
end

section
/-! What each instruction is made of, when it stops, and what it leaves in PC. -/

namespace Sys2Proof.Machine

/-! ### What an instruction is made of -/

theorem ifRor_without {opcode : Byte} {r : Result} {s : State} (h : s.cfg.hasRor = false) :
    ifRor opcode r s = .fault (.illegalOpcode opcode s.pc) := by
  simp [ifRor, h]

theorem ifRor_with {opcode : Byte} {r : Result} {s : State} (h : s.cfg.hasRor = true) : ifRor opcode r s = r := by
  simp [ifRor, h]

theorem execJsr_overlap {nn : Word} {s : State} (h : s.JsrOverwritesOperand) :
    execJsr nn s = .refused (.jsrOverwritesOperand s.pc) := if_pos (jsrOverlap_iff.mpr h)

theorem execJsr_clear {nn : Word} {s : State} (h : ¬ s.JsrOverwritesOperand) :
    execJsr nn s = bindNext (pushWord (s.pc + 2#16) s) fun u => .next (u.jump nn) :=
  if_neg fun ho => h (jsrOverlap_iff.mp ho)

theorem exec_of_lacksRor {i : Instr} {s : State} (h : s.LacksRor i) :
    exec i s = .fault (.illegalOpcode i.opcode s.pc) := by
  obtain ⟨hi, hchip⟩ := h
  cases i with
  | rorAcc | rorZp | rorZpx | rorAbs | rorAbsx => exact ifRor_without hchip
  | _ => cases hi

/-- What running an instruction is: one of the shared shapes, where the instruction does not assign PC with what it
leaves in PC, or one of the instructions that have a shape of their own. -/
inductive ExecShape (i : Instr) (s : State) : Prop where
  | operand (o : Operand) (effect : Byte → State → State) (hexec : exec i s = withOperand o effect s)
      (hlen : i.length = o.length) (hpc : ∀ m u, (effect m u).pc = u.pc)
  | store (f : AddrForm) (v : Byte) (hform : i.form = .mem f) (hexec : exec i s = storeAt f v s)
  | modify (f : AddrForm) (op : Byte → Flags → Byte × Flags) (hform : i.form = .mem f)
      (hexec : exec i s = modifyAt f op s)
  | registers (t : State) (hexec : exec i s = .next t) (hpc : t.pc = s.pc + BitVec.ofNat 16 i.length)
  | push (v : Byte) (hexec : exec i s = bindNext (push v s) implied) (hlen : i.length = 1)
  | pull (effect : Byte → State → State) (hexec : exec i s = bindNext (pull s) fun vu => .next (effect vu.1 vu.2))
      (hpc : ∀ v u, (effect v u).pc = u.pc + BitVec.ofNat 16 i.length)
  | branch (cond : Bool) (n : Byte) (hexec : exec i s = branchIf cond n s) (hassigns : i.assignsPc = true)
  | jmpAbs (nn : Word) (hi : i = .jmpAbs nn)
  | jmpInd (nn : Word) (hi : i = .jmpInd nn)
  | jsr (nn : Word) (hi : i = .jsr nn)
  | rts (hi : i = .rts)
  | brk (hi : i = .brk)
  | rti (hi : i = .rti)
  | illegal (hror : s.LacksRor i)

theorem adcEffect_pc (m : Byte) (s : State) : (adcEffect m s).pc = s.pc := by rw [(adcEffect_registers m s).1]

theorem sbcEffect_pc (m : Byte) (s : State) : (sbcEffect m s).pc = s.pc := by rw [(sbcEffect_registers m s).1]

theorem hasRor_of_not_lacksRor {i : Instr} {s : State} (h : ¬ s.LacksRor i) (hi : i.mnemonic = .ror) :
    s.cfg.hasRor = true := by
  simpa [State.LacksRor, hi] using h

/-- The one case split over the 151 instructions: what each is made of. -/
theorem execShape (i : Instr) (s : State) : ExecShape i s := by
  by_cases hror : s.LacksRor i
  · exact .illegal hror
  have hchip := hasRor_of_not_lacksRor hror
  cases i with
  | ldaImm | ldxImm | ldyImm | andImm | oraImm | eorImm | cmpImm | cpxImm | cpyImm =>
    exact .operand (.imm _) _ rfl rfl fun _ _ => rfl
  | ldaZp | ldaZpx | ldaAbs | ldaAbsx | ldaAbsy | ldaIndx | ldaIndy
  | ldxZp | ldxZpy | ldxAbs | ldxAbsy | ldyZp | ldyZpx | ldyAbs | ldyAbsx
  | andZp | andZpx | andAbs | andAbsx | andAbsy | andIndx | andIndy
  | oraZp | oraZpx | oraAbs | oraAbsx | oraAbsy | oraIndx | oraIndy
  | eorZp | eorZpx | eorAbs | eorAbsx | eorAbsy | eorIndx | eorIndy | bitZp | bitAbs
  | cmpZp | cmpZpx | cmpAbs | cmpAbsx | cmpAbsy | cmpIndx | cmpIndy
  | cpxZp | cpxAbs | cpyZp | cpyAbs => exact .operand _ _ rfl rfl fun _ _ => rfl
  | adcImm => exact .operand (.imm _) _ rfl rfl adcEffect_pc
  | adcZp | adcZpx | adcAbs | adcAbsx | adcAbsy | adcIndx | adcIndy => exact .operand _ _ rfl rfl adcEffect_pc
  | sbcImm => exact .operand (.imm _) _ rfl rfl sbcEffect_pc
  | sbcZp | sbcZpx | sbcAbs | sbcAbsx | sbcAbsy | sbcIndx | sbcIndy => exact .operand _ _ rfl rfl sbcEffect_pc
  | staZp | staZpx | staAbs | staAbsx | staAbsy | staIndx | staIndy
  | stxZp | stxZpy | stxAbs | styZp | styZpx | styAbs => exact .store _ _ rfl rfl
  | incZp | incZpx | incAbs | incAbsx | decZp | decZpx | decAbs | decAbsx
  | aslZp | aslZpx | aslAbs | aslAbsx | lsrZp | lsrZpx | lsrAbs | lsrAbsx
  | rolZp | rolZpx | rolAbs | rolAbsx => exact .modify _ _ rfl rfl
  | rorZp | rorZpx | rorAbs | rorAbsx => exact .modify _ rorOp rfl (ifRor_with (hchip rfl))
  | rorAcc => exact .registers _ (ifRor_with (hchip rfl)) rfl
  | tax | tay | txa | tya | tsx | txs | inx | iny | dex | dey | aslAcc | lsrAcc | rolAcc
  | clc | sec | cli | sei | cld | sed | clv | nop => exact .registers _ rfl rfl
  | pha | php => exact .push _ rfl rfl
  | pla => exact .pull (fun v u => ((u.setA v).setNZ v).advance 1) rfl fun _ _ => rfl
  | plp => exact .pull (fun v u => (u.setP (flagsOf v)).advanceLagged u.p.i) rfl fun _ _ => rfl
  | bpl | bmi | bvc | bvs | bcc | bcs | bne | beq => exact .branch _ _ rfl rfl
  | jmpAbs nn => exact .jmpAbs nn rfl
  | jmpInd nn => exact .jmpInd nn rfl
  | jsr nn => exact .jsr nn rfl
  | rts => exact .rts rfl
  | brk => exact .brk rfl
  | rti => exact .rti rfl

/-! ### When an instruction stops, and what it leaves in PC -/

/-- An instruction stops for an access, or is a ROR that the chip does not have, or a JSR that overwrites its operand. -/
inductive ExecStops (i : Instr) (s : State) : Prop where
  | access (h : StopsByAccess s (exec i s))
  | illegal (hror : s.LacksRor i)
  | overwrites (hi : i.mnemonic = .jsr) (ho : s.JsrOverwritesOperand)
      (hexec : exec i s = .refused (.jsrOverwritesOperand s.pc))

theorem execStops (i : Instr) (s : State) : ExecStops i s := by
  cases execShape i s with
  | operand o effect hexec => exact .access (hexec ▸ withOperand_stops o effect s)
  | store f v hform hexec => exact .access (hexec ▸ storeAt_stops f v s)
  | modify f op hform hexec => exact .access (hexec ▸ modifyAt_stops f op s)
  | registers t hexec => exact .access (hexec ▸ stopsByAccess_next t)
  | push v hexec =>
    exact .access (hexec ▸ stopsByAccess_bindNext (push_stops v s) fun _ _ => stopsByAccess_next _)
  | pull effect hexec =>
    exact .access (hexec ▸ stopsByAccess_bindNext (pull_stops s) fun _ _ => stopsByAccess_next _)
  | branch cond n hexec => exact .access (hexec ▸ stopsByAccess_next _)
  | jmpAbs nn hi => subst hi; exact .access (stopsByAccess_next _)
  | jmpInd nn hi =>
    subst hi
    exact .access (stopsByAccess_bindNext (readPtr_stops nn s) fun _ _ => stopsByAccess_next _)
  | jsr nn hi =>
    subst hi
    by_cases ho : s.JsrOverwritesOperand
    · exact .overwrites rfl ho (execJsr_overlap ho)
    · refine .access (?_ : StopsByAccess s (execJsr nn s))
      rw [execJsr_clear ho]
      exact stopsByAccess_bindNext (pushWord_stops _ s) fun _ _ => stopsByAccess_next _
  | rts hi => subst hi; exact .access (stopsByAccess_bindNext (pullWord_stops s) fun _ _ => stopsByAccess_next _)
  | brk hi => subst hi; exact .access (enter_stops _ true irqVector s)
  | rti hi => subst hi; exact .access (returnFrom_stops s)
  | illegal hror => exact .illegal hror

/-- With no parameter asking for a stop, an instruction completes unless it is a JSR that overwrites its operand. -/
theorem exec_completes {i : Instr} {s : State} (h : s.cfg.NeverStops)
    (hjsr : i.mnemonic = .jsr → ¬ s.JsrOverwritesOperand) : ∃ t, exec i s = .next t := by
  cases execStops i s with
  | access hs => exact hs.completes h
  | illegal hror => exact absurd (h.1.symm.trans hror.2) (by decide)
  | overwrites hi ho => exact absurd ho (hjsr hi)

/-- An instruction that does not assign PC leaves it past its own bytes (R24). -/
theorem exec_pc {i : Instr} {s t : State} (h : exec i s = .next t) (hi : i.assignsPc = false) :
    t.pc = s.pc + BitVec.ofNat 16 i.length := by
  cases execShape i s with
  | operand o effect hexec hlen hpc =>
    obtain ⟨m, u, hv, rfl⟩ := withOperand_eq_next.mp (hexec ▸ h)
    rw [advance_pc, hpc, (value_spec hv).pc_eq, hlen]
  | store f v hform hexec =>
    obtain ⟨ea, u, w, he, hw, rfl⟩ := storeAt_eq_next.mp (hexec ▸ h)
    rw [advance_pc, (write_storeStep hw).pc_eq, (effectiveAddr_spec he).pc_eq, Instr.length, hform]; rfl
  | modify f op hform hexec =>
    obtain ⟨ea, u, m, w, x, he, -, hr, hw, rfl⟩ := modifyAt_eq_next.mp (hexec ▸ h)
    rw [advance_pc, setP_pc, (write_storeStep hw).pc_eq, (read_spec hr).pc_eq, (effectiveAddr_spec he).pc_eq,
      Instr.length, hform]; rfl
  | registers u hexec hpc => exact Host.Outcome.next.inj (hexec.symm.trans h) ▸ hpc
  | push v hexec hlen =>
    obtain ⟨u, hu, ht⟩ := bindNext_eq_next.mp (hexec.symm.trans h)
    obtain rfl : u.advance 1 = t := Host.Outcome.next.inj ht
    rw [advance_pc, (push_spec hu).1.pc_eq, hlen]
  | pull effect hexec hpc =>
    obtain ⟨⟨v, u⟩, hu, ht⟩ := bindNext_eq_next.mp (hexec.symm.trans h)
    obtain rfl : effect v u = t := Host.Outcome.next.inj ht
    rw [hpc, (pull_storeStep hu).1.pc_eq]
  | branch cond n hexec hassigns => exact absurd (hi.symm.trans hassigns) (by decide)
  | jmpAbs _ hj | jmpInd _ hj | jsr _ hj | rts hj | brk hj | rti hj => subst hj; cases hi
  | illegal hror => exact absurd ((exec_of_lacksRor hror).symm.trans h) nofun

/-- Settles O35: each ROR opcode has its meaning only where the chip has ROR. -/
theorem rorIsIllegalWithoutRor : Obligations.RorIsIllegalWithoutRor := fun _ _ _ h =>
  ⟨ifRor_without h, ifRor_without h, ifRor_without h, ifRor_without h, ifRor_without h⟩

/-- Settles O9: an instruction that stops has a cause in the parameters, and one that completes keeps what `exec_kept`
says and leaves in PC what `exec_pc` says. -/
theorem everyInstructionCompletes : Obligations.EveryInstructionCompletes := by
  intro i s h hjsr
  obtain ⟨t, ht⟩ := exec_completes h hjsr
  have hk := exec_kept ht
  exact ⟨t, ht, hk.cfg, hk.inputs, hk.nmiPending, hk.nmiPrev, exec_pc ht⟩

/-- Settles O11: the causes of a stop, by what the instruction is made of. -/
theorem everyStopHasItsCause : Obligations.EveryStopHasItsCause := by
  intro i s
  cases execStops i s with
  | access hs =>
    constructor
    · intro e he
      cases hs.ofFault e he with
      | pointerPageCross hlow hp => exact .inr (.inl ⟨_, rfl, hlow, hp⟩)
      | unpopulatedAccess hk hp => exact .inr (.inr (.inl ⟨_, rfl, hk, hp⟩))
      | writeToRom hk hp => exact .inr (.inr (.inr ⟨_, rfl, hk, hp⟩))
    · intro r hr
      cases hs.ofRefused r hr with
      | deviceExtraAccess hp hnear => exact .inl ⟨_, rfl, hp, hnear⟩
  | illegal hror =>
    rw [exec_of_lacksRor hror]
    exact ⟨fun e he => .inl ⟨(Host.Outcome.fault.inj he).symm, hror.1, hror.2⟩, nofun⟩
  | overwrites hi ho hexec =>
    rw [hexec]
    exact ⟨nofun, fun r hr => .inr ⟨(Host.Outcome.refused.inj hr).symm, hi, ho⟩⟩

end Sys2Proof.Machine
end

section
/-! The fetch and the step: when they stop (R89, R217), and the instruction that a step runs (R15, R225). -/

namespace Sys2Proof.Machine

/-- An opcode that the chip does not have stops the fetch (R89, R6). -/
theorem fetch_illegal {s u : State} {op : Byte} (hr : read s.pc s = .next (op, u))
    (hs : shapeOnChip s.cfg.hasRor op = none) : fetch s = .fault (.illegalOpcode op s.pc) := by
  have hb := read_spec hr
  simp only [fetch, hr, bindNext_next, hb.cfg_eq, hb.pc_eq, hs]

/-- A fetch stops for an access, or at an opcode that the chip does not have. -/
theorem fetch_stops (s : State) : StopsByAccess s (fetch s) ∨
    ∃ op u, read s.pc s = .next (op, u) ∧ shapeOnChip s.cfg.hasRor op = none := by
  by_cases hill : ∃ op u, read s.pc s = .next (op, u) ∧ shapeOnChip s.cfg.hasRor op = none
  · exact .inr hill
  · refine .inl (stopsByAccess_bindNext (read_stops s.pc s) fun (op, u) hr => ?_)
    have hb := read_spec hr
    refine StopsByAccess.of_cfg_eq (t := u) ?_ hb.cfg_eq
    simp only
    split
    · next hs => exact absurd ⟨op, u, hr, hb.cfg_eq ▸ hs⟩ hill
    · exact stopsByAccess_next _
    · exact stopsByAccess_bindNext (read_stops _ u) fun _ _ => stopsByAccess_next _
    · exact stopsByAccess_bindNext (read_stops _ u) fun (_, w) hw =>
        stopsByAccess_bindNext ((read_stops _ w).of_cfg_eq (read_spec hw).cfg_eq) fun _ _ => stopsByAccess_next _

theorem step_of_instruction {s : State} (h : nextEvent s.boundary s.sampled = .instruction) :
    step s = runInstruction s.sampled := by
  have h' : nextEvent s.boundary (sampleLines s) = .instruction := h
  simp only [step, h']; rfl

/-- A reset or an interrupt entry stops for an access alone. -/
theorem step_stops_of_event {s : State} (h : nextEvent s.boundary s.sampled ≠ .instruction) :
    StopsByAccess s (step s) := by
  unfold step
  split
  · exact (resetStep_stops _).of_cfg_eq rfl
  · exact (enter_stops _ _ _ _).of_cfg_eq rfl
  · exact (enter_stops _ _ _ _).of_cfg_eq rfl
  · next hi => exact absurd hi h

theorem eq_jsr_of_mnemonic {i : Instr} (h : i.mnemonic = .jsr) : ∃ nn, i = .jsr nn := by
  cases i with
  | jsr nn => exact ⟨nn, rfl⟩
  | _ => cases h

/-- Settles O10: reset and entry stop for an access alone; the fetch, or the instruction that it gives, stops for an
access, at an illegal opcode, or at a JSR that overwrites its operand. -/
theorem onlyIllegalOpcodesStopTheMachine : Obligations.OnlyIllegalOpcodesStopTheMachine := by
  intro s h
  by_cases hev : nextEvent s.boundary s.sampled ≠ .instruction
  · exact .inl ((step_stops_of_event hev).completes h)
  rw [not_not] at hev
  have hstep := step_of_instruction hev
  have h' : s.sampled.cfg.NeverStops := h
  rcases fetch_stops s.sampled with hf | ⟨op, u, hr, hs⟩
  · obtain ⟨⟨i, u⟩, hf⟩ := hf.completes h'
    have hb := fetch_spec hf
    have hrun : step s = exec i u := by rw [hstep, runInstruction, hf, bindNext_next]
    by_cases hjsr : i.mnemonic = .jsr ∧ u.JsrOverwritesOperand
    · obtain ⟨hi, ho⟩ := hjsr
      obtain ⟨nn, rfl⟩ := eq_jsr_of_mnemonic hi
      have hpc : u.pc = s.pc := hb.pc_eq
      exact .inr ⟨hev, .inr ⟨nn, u, hf, ho, by rw [hrun, ← hpc]; exact execJsr_overlap ho⟩⟩
    · obtain ⟨t, ht⟩ := exec_completes (hb.cfg_eq ▸ h') fun hi ho => hjsr ⟨hi, ho⟩
      exact .inl ⟨t, hrun.trans ht⟩
  · have hblank : shapeOf op = none := by rwa [h'.1, shapeOnChip_with] at hs
    refine .inr ⟨hev, .inl ⟨op, u, hr, mem_illegalOpcodes_of_shapeOf hblank, ?_⟩⟩
    rw [hstep, runInstruction, fetch_illegal hr hs]; rfl

/-- Running the instruction that the bytes at PC decode to: on a chip without it, fetch and exec stop alike. -/
theorem runInstruction_of_decode {s : State} {i : Instr} {rest : List Byte}
    (hm : ∀ k, k < i.length → s.IsMemory (s.pc + BitVec.ofNat 16 k)) (hd : decode s.bytesAtPc = .ok (i, rest)) :
    runInstruction s = exec i s := by
  have hbytes := byteAt_of_bytesAtPc (eq_encode_append_of_decode hd)
  have hchip := shapeOnChip_opcode i s
  by_cases hror : s.LacksRor i
  · have hpc : s.IsMemory s.pc := by simpa using hm 0 (by simp [← encode_length, encode])
    have hop : s.byteAt s.pc = i.opcode := by simpa [encode] using hbytes 0 (by simp [encode])
    rw [if_pos hror] at hchip
    rw [runInstruction, fetch_illegal (hop ▸ read_memory hpc) hchip, exec_of_lacksRor hror, bindNext_fault]
  · rw [if_neg hror] at hchip
    rw [runInstruction, fetch_memory hm hbytes hchip, bindNext_next]

/-- Settles O5: sampling the lines moves neither PC nor the bytes there. -/
theorem stepRunsDecodedInstruction : Obligations.StepRunsDecodedInstruction := by
  intro s i rest hev hm hd
  rw [step_of_instruction hev]
  exact runInstruction_of_decode (s := s.sampled) hm hd

end Sys2Proof.Machine
end

section
/-! The state after reset (R46, R250), what a step consumes (R220, R221), and where the next PC lies (R24, R180). -/

namespace Sys2Proof.Machine

/-! ### Reset -/

theorem allRam_aliasIdempotent : Platform.allRam.AliasIdempotent := aliasIdempotent_of nofun

theorem reset_inv : State.reset.Inv := ⟨memory_wf_nil, allRam_aliasIdempotent, nofun⟩

/-- Settles O7: the invariant is `reset_inv`; the values are those that `State.reset` names. -/
theorem resetStateAsSpecified : Obligations.ResetStateAsSpecified := ⟨reset_inv, rfl, rfl, rfl, rfl, rfl⟩

/-! ### What a step keeps -/

/-- What is kept does not depend on the pending NMI, if both states have the same one. -/
theorem Kept.withPending {s t : State} (h : Kept s t) (b : Bool) :
    Kept { s with nmiPending := b } { t with nmiPending := b } :=
  ⟨h.cfg, h.inputs, h.environment, h.time, h.nmiPrev, rfl, h.history, h.draws, h.wf⟩

/-- The draws of a reset change registers and flags alone. -/
theorem resetDraws_kept (s : State) : Kept s (drawFlags (drawRegisters s)) := .ofRegisters rfl (Nat.le_add_right _ 9)

theorem resetStep_eq_next {s t : State} :
    resetStep s = .next t ↔ ∃ target u, read16 resVector (s.setP { s.p with i := true }) = .next (target, u) ∧
      t = { (drawFlags (drawRegisters u)).jump target with nmiPending := false } := by
  simp only [resetStep, bindNext_eq_next, Prod.exists, Host.Outcome.next.injEq, eq_comm (a := t)]

theorem resetStep_kept {s t : State} (h : resetStep s = .next t) : Kept { s with nmiPending := false } t := by
  obtain ⟨target, u, hu, rfl⟩ := resetStep_eq_next.mp h
  have hread : Kept s u :=
    (Kept.ofRegisters (t := s.setP { s.p with i := true }) rfl le_rfl).trans (.ofBus (read16_spec hu))
  have hjump : Kept s ((drawFlags (drawRegisters u)).jump target) :=
    (hread.trans (resetDraws_kept u)).trans (.ofRegisters rfl le_rfl)
  exact hjump.withPending false

theorem runInstruction_kept {s t : State} (h : runInstruction s = .next t) : Kept s t := by
  obtain ⟨⟨i, u⟩, hf, hx⟩ := bindNext_eq_next.mp h
  exact (Kept.ofBus (fetch_spec hf)).trans (exec_kept hx)

/-- A step samples the lines and then keeps what `Kept` says, but that a reset and an NMI entry clear the pending edge
first. -/
theorem step_kept {s t : State} (h : step s = .next t) :
    Kept s.sampled t ∨ Kept { s.sampled with nmiPending := false } t := by
  unfold step at h
  split at h
  · exact .inr (resetStep_kept h)
  · exact .inr (enter_kept h)
  · exact .inl (enter_kept h)
  · exact .inl (runInstruction_kept h)

/-- Settles O8: whatever the step is, `step_kept` says what of the sampled state it keeps. -/
theorem stepOnlyConsumesEnvironment : Obligations.StepOnlyConsumesEnvironment := by
  intro s t h
  obtain ⟨pending, k⟩ : ∃ b, Kept { s.sampled with nmiPending := b } t := (step_kept h).elim (⟨_, ·⟩) (⟨_, ·⟩)
  obtain ⟨l, hl, -⟩ := k.history
  exact ⟨k.cfg, k.inputs, k.environment, k.time, k.nmiPrev, k.draws, l, hl.symm⟩

/-! ### PC -/

theorem ofNat_toNat_add (a : Word) (k : Nat) : BitVec.ofNat 16 (a.toNat + k) = a + BitVec.ofNat 16 k := by
  rw [BitVec.ofNat_add, BitVec.ofNat_toNat, BitVec.setWidth_eq]

/-- Settles O12: `exec_pc`, with the sum written over the natural numbers. -/
theorem pcAdvancesByLength : Obligations.PcAdvancesByLength := by
  intro i s t h hi
  rw [exec_pc h hi, ofNat_toNat_add]

/-- The target of a branch is a signed distance from the next instruction (R104). -/
theorem branchTarget_eq_ofInt (pc : Word) (n : Byte) :
    branchTarget pc n = BitVec.ofInt 16 ((pc.toNat : Int) + 2 + n.toInt) := by
  rw [branchTarget, BitVec.ofInt_add, BitVec.ofInt_add, BitVec.ofInt_natCast, BitVec.ofNat_toNat, BitVec.setWidth_eq]
  rfl

/-- A branch changes PC and nothing else, and I has no lag (R180, R230). -/
theorem branchIf_eq (cond : Bool) (n : Byte) (s : State) :
    branchIf cond n s = .next { s with
      pc := if cond then BitVec.ofInt 16 ((s.pc.toNat : Int) + 2 + n.toInt) else BitVec.ofNat 16 (s.pc.toNat + 2)
      iPoll := s.p.i } := by
  rw [← branchTarget_eq_ofInt, ofNat_toNat_add]
  cases cond <;> rfl

/-- Settles O36: each branch is `branchIf` of its flag, negated for the four that test for 0. -/
theorem branchesTestOneFlag : Obligations.BranchesTestOneFlag := by
  intro s n
  simp only [← branchIf_eq, beq_true, beq_false]
  exact ⟨rfl, rfl, rfl, rfl, rfl, rfl, rfl, rfl⟩

end Sys2Proof.Machine
end

section
/-! What a push leaves in the cells of memory (R26, R27), and where it goes on a system that ignores AB8 (R28). -/

namespace Sys2Proof.Machine

variable {s t : State} {b : Word}

theorem push_byteAt {v : Byte} (h : push v s = .next t) (h0 : s.cell b ≠ s.cell (stackAddr s.sp)) :
    t.byteAt b = s.byteAt b := by
  obtain ⟨-, -, ho⟩ := push_spec h
  exact ho.elsewhere b h0

theorem pushWord_byteAt {v : Word} (h : pushWord v s = .next t) (h0 : s.cell b ≠ s.cell (stackAddr s.sp))
    (h1 : s.cell b ≠ s.cell (stackAddr (s.sp - 1#8))) : t.byteAt b = s.byteAt b := by
  obtain ⟨u, hu, ht⟩ := pushWord_eq_next.mp h
  obtain ⟨hstep, hsp, -⟩ := push_spec hu
  have h1' : u.cell b ≠ u.cell (stackAddr u.sp) := by rwa [hstep.cell_eq, hstep.cell_eq, hsp]
  rw [push_byteAt ht h1', push_byteAt hu h0]

theorem enter_byteAt {ret vector : Word} {brk : Bool} (h : enter ret brk vector s = .next t)
    (h0 : s.cell b ≠ s.cell (stackAddr s.sp)) (h1 : s.cell b ≠ s.cell (stackAddr (s.sp - 1#8)))
    (h2 : s.cell b ≠ s.cell (stackAddr (s.sp - 2#8))) : t.byteAt b = s.byteAt b := by
  obtain ⟨u, w, target, x, hu, hw, hx, rfl⟩ := enter_eq_next.mp h
  obtain ⟨hstep, hsp⟩ := pushWord_spec hu
  have h2' : u.cell b ≠ u.cell (stackAddr u.sp) := by rwa [hstep.cell_eq, hstep.cell_eq, hsp]
  rw [jump_byteAt, (read16_spec hx).byteAt_eq, setP_byteAt, push_byteAt hw h2', pushWord_byteAt hu h0 h1]

/-- PHA and PHP are a push of one byte. -/
theorem pushImplied_byteAt {v : Byte} (h : bindNext (push v s) implied = .next t)
    (h0 : s.cell b ≠ s.cell (stackAddr s.sp)) : t.byteAt b = s.byteAt b := by
  obtain ⟨u, hu, ht⟩ := bindNext_eq_next.mp h
  obtain rfl : u.advance 1 = t := Host.Outcome.next.inj ht
  rw [advance_byteAt, push_byteAt hu h0]

theorem execJsr_byteAt {nn : Word} (h : execJsr nn s = .next t) (h0 : s.cell b ≠ s.cell (stackAddr s.sp))
    (h1 : s.cell b ≠ s.cell (stackAddr (s.sp - 1#8))) : t.byteAt b = s.byteAt b := by
  obtain ⟨-, u, hu, rfl⟩ := execJsr_eq_next.mp h
  rw [jump_byteAt, pushWord_byteAt hu h0 h1]

/-- Settles O46: one push leaves every other cell, and the next one starts at S - 1. -/
theorem pushesChangeOnlyStackCells : Obligations.PushesChangeOnlyStackCells :=
  fun _ _ _ _ h0 => ⟨fun h => h.elim (pushImplied_byteAt · h0) (pushImplied_byteAt · h0), fun h1 =>
    ⟨fun h => execJsr_byteAt h h0 h1, fun h2 h => enter_byteAt h h0 h1 h2⟩⟩

/-! ### A system without AB8 -/

theorem zext_toNat (n : Byte) : (zext n).toNat = n.toNat := by
  rw [zext, BitVec.toNat_setWidth]; omega

theorem stackAddr_toNat (sp : Byte) : (stackAddr sp).toNat = 0x0100 + sp.toNat := word_toNat _ _

/-- A system on which AB8 is not decoded: page 1 names the cells of page 0 (R28). -/
def ab8Alias : AliasRange where
  base := 0x0100
  size := 0x0100
  target := 0x0000

theorem canon_stackAddr_of_ab8 {p : Platform} (h : p.aliases = [ab8Alias]) (sp : Byte) :
    p.canon (stackAddr sp) = zext sp := by
  have hsp := sp.isLt
  have hin : p.aliasOf (stackAddr sp) = some ab8Alias := by
    simp [Platform.aliasOf, h, ab8Alias, stackAddr_toNat]; omega
  apply BitVec.eq_of_toNat_eq
  simp [Platform.canon, hin, ab8Alias, stackAddr_toNat, zext_toNat]; omega

theorem canon_zext_of_ab8 {p : Platform} (h : p.aliases = [ab8Alias]) (n : Byte) : p.canon (zext n) = zext n := by
  have hn := n.isLt
  have hout : p.aliasOf (zext n) = none := by
    simp [Platform.aliasOf, h, ab8Alias, zext_toNat]; omega
  simp only [Platform.canon, hout]

/-- Settles O57: the stack address and the page zero address name one cell. -/
theorem stackMovesToPageZeroWithoutAb8 : Obligations.StackMovesToPageZeroWithoutAb8 := by
  intro s v h hram
  have hcell : s.cell (zext s.sp) = s.cell (stackAddr s.sp) :=
    (canon_zext_of_ab8 h s.sp).trans (canon_stackAddr_of_ab8 h s.sp).symm
  have hstack : s.IsRam (stackAddr s.sp) := by rwa [State.IsRam, State.kindAt, ← hcell]
  exact ⟨_, push_ram hstack v, (setSp_byteAt _ _ _).trans (storeCell_byteAt_same hcell v)⟩

end Sys2Proof.Machine
end

section
/-! Which registers and flags an instruction changes (R20 to R22, R26, R39). -/

namespace Sys2Proof.Machine

/-! ### The frame of an instruction on registers and flags -/

/-- From `s` to `t`, A, X, Y, S and the flags change only where the instruction is listed as writing them. -/
structure ChangesOnly (i : Instr) (s t : State) : Prop where
  a : i.writesA = false → t.a = s.a
  x : i.writesX = false → t.x = s.x
  y : i.writesY = false → t.y = s.y
  sp : i.writesS = false → t.sp = s.sp
  flagN : i.mnemonic.flagsWritten.n = false → t.p.n = s.p.n
  flagV : i.mnemonic.flagsWritten.v = false → t.p.v = s.p.v
  flagD : i.mnemonic.flagsWritten.d = false → t.p.d = s.p.d
  flagI : i.mnemonic.flagsWritten.i = false → t.p.i = s.p.i
  flagZ : i.mnemonic.flagsWritten.z = false → t.p.z = s.p.z
  flagC : i.mnemonic.flagsWritten.c = false → t.p.c = s.p.c

namespace ChangesOnly

variable {i : Instr} {s t u : State}

theorem trans (h : ChangesOnly i s t) (k : ChangesOnly i t u) : ChangesOnly i s u where
  a hw := (k.a hw).trans (h.a hw)
  x hw := (k.x hw).trans (h.x hw)
  y hw := (k.y hw).trans (h.y hw)
  sp hw := (k.sp hw).trans (h.sp hw)
  flagN hw := (k.flagN hw).trans (h.flagN hw)
  flagV hw := (k.flagV hw).trans (h.flagV hw)
  flagD hw := (k.flagD hw).trans (h.flagD hw)
  flagI hw := (k.flagI hw).trans (h.flagI hw)
  flagZ hw := (k.flagZ hw).trans (h.flagZ hw)
  flagC hw := (k.flagC hw).trans (h.flagC hw)

/-- Changes to nothing but PC, `i_poll`, memory and the rest of the machine. -/
theorem ofSame (ha : t.a = s.a) (hx : t.x = s.x) (hy : t.y = s.y) (hsp : t.sp = s.sp) (hp : t.p = s.p) :
    ChangesOnly i s t := by
  constructor <;> simp [ha, hx, hy, hsp, hp]

theorem advance (s : State) (len : Nat) : ChangesOnly i s (s.advance len) := .ofSame rfl rfl rfl rfl rfl

theorem advanceLagged (s : State) (before : Bool) : ChangesOnly i s (s.advanceLagged before) :=
  .ofSame rfl rfl rfl rfl rfl

theorem jump (s : State) (target : Word) : ChangesOnly i s (s.jump target) := .ofSame rfl rfl rfl rfl rfl

theorem ofBus (h : BusStep s t) : ChangesOnly i s t := .ofSame h.a_eq h.x_eq h.y_eq h.sp_eq h.p_eq

/-- A push or a pull. -/
theorem ofStack (h : StoreStep s t) (hs : i.writesS = true) : ChangesOnly i s t := by
  constructor <;> simp [hs, h.a_eq, h.x_eq, h.y_eq, h.p_eq]

theorem ofWrite {ea : Word} {m : Byte} (h : write ea m s = .next t) : ChangesOnly i s t := by
  rw [(write_spec h).1]; exact .ofSame rfl rfl rfl rfl rfl

/-! One lemma for each set of registers and flags that some instruction writes. -/

theorem setA (m : Byte) (hi : i.writesA = true) : ChangesOnly i s (s.setA m) := by
  constructor <;> simp [hi]

theorem setX (m : Byte) (hi : i.writesX = true) : ChangesOnly i s (s.setX m) := by
  constructor <;> simp [hi]

theorem setY (m : Byte) (hi : i.writesY = true) : ChangesOnly i s (s.setY m) := by
  constructor <;> simp [hi]

theorem setSp (m : Byte) (hi : i.writesS = true) : ChangesOnly i s (s.setSp m) := .ofStack (setSp_storeStep s m) hi

theorem setNZ (r : Byte) (hn : i.mnemonic.flagsWritten.n = true) (hz : i.mnemonic.flagsWritten.z = true) :
    ChangesOnly i s (s.setNZ r) := by
  constructor <;> simp [hn, hz]

/-- The flags of a compare or a shift. -/
theorem setNZC (n z c : Bool) (hn : i.mnemonic.flagsWritten.n = true) (hz : i.mnemonic.flagsWritten.z = true)
    (hc : i.mnemonic.flagsWritten.c = true) : ChangesOnly i s (s.setP { s.p with n := n, z := z, c := c }) := by
  constructor <;> simp [hn, hz, hc]

/-- The flags of BIT, and those that decimal arithmetic draws. -/
theorem setNVZ (n v z : Bool) (hn : i.mnemonic.flagsWritten.n = true) (hv : i.mnemonic.flagsWritten.v = true)
    (hz : i.mnemonic.flagsWritten.z = true) : ChangesOnly i s (s.setP { s.p with n := n, v := v, z := z }) := by
  constructor <;> simp [hn, hv, hz]

theorem setV (b : Bool) (hi : i.mnemonic.flagsWritten.v = true) : ChangesOnly i s (s.setP { s.p with v := b }) := by
  constructor <;> simp [hi]

theorem setD (b : Bool) (hi : i.mnemonic.flagsWritten.d = true) : ChangesOnly i s (s.setP { s.p with d := b }) := by
  constructor <;> simp [hi]

theorem setI (b : Bool) (hi : i.mnemonic.flagsWritten.i = true) : ChangesOnly i s (s.setP { s.p with i := b }) := by
  constructor <;> simp [hi]

theorem setC (b : Bool) (hi : i.mnemonic.flagsWritten.c = true) : ChangesOnly i s (s.setP { s.p with c := b }) := by
  constructor <;> simp [hi]

/-- PLP and RTI write every flag. -/
theorem setP (q : Flags) (hi : i.mnemonic.flagsWritten = ⟨true, true, true, true, true, true⟩) :
    ChangesOnly i s (s.setP q) := by
  constructor <;> simp [hi]

/-- A, with the flags of the result. -/
theorem setA_setNZ (m r : Byte) (hi : i.writesA = true) (hn : i.mnemonic.flagsWritten.n = true)
    (hz : i.mnemonic.flagsWritten.z = true) : ChangesOnly i s ((s.setA m).setNZ r) :=
  (setA m hi).trans (setNZ r hn hz)

/-- X, with the flags of the result. -/
theorem setX_setNZ (m r : Byte) (hi : i.writesX = true) (hn : i.mnemonic.flagsWritten.n = true)
    (hz : i.mnemonic.flagsWritten.z = true) : ChangesOnly i s ((s.setX m).setNZ r) :=
  (setX m hi).trans (setNZ r hn hz)

/-- Y, with the flags of the result. -/
theorem setY_setNZ (m r : Byte) (hi : i.writesY = true) (hn : i.mnemonic.flagsWritten.n = true)
    (hz : i.mnemonic.flagsWritten.z = true) : ChangesOnly i s ((s.setY m).setNZ r) :=
  (setY m hi).trans (setNZ r hn hz)

/-- A and the flags of ADC and SBC. -/
theorem arithmetic (hsame : t = { s with a := t.a, p := t.p, draws := t.draws }) (hd : t.p.d = s.p.d)
    (hI : t.p.i = s.p.i) (hi : i.writesA = true)
    (hw : i.mnemonic.flagsWritten = ⟨true, true, false, false, true, true⟩) : ChangesOnly i s t := by
  rw [hsame]; constructor <;> simp [hi, hw, hd, hI]

end ChangesOnly

/-! ### Decimal mode and IRQ disable in arithmetic -/

theorem decimalStrict_p (m : Byte) (r : Byte × Bool) (s : State) :
    (decimalStrict m r s).p.d = s.p.d ∧ (decimalStrict m r s).p.i = s.p.i := by
  unfold decimalStrict
  split <;> exact ⟨rfl, rfl⟩

theorem adcEffect_p (m : Byte) (s : State) : (adcEffect m s).p.d = s.p.d ∧ (adcEffect m s).p.i = s.p.i := by
  unfold adcEffect
  split
  · split
    · exact decimalStrict_p _ _ _
    · exact ⟨rfl, rfl⟩
  · exact ⟨rfl, rfl⟩

theorem sbcEffect_p (m : Byte) (s : State) : (sbcEffect m s).p.d = s.p.d ∧ (sbcEffect m s).p.i = s.p.i := by
  unfold sbcEffect
  split
  · split
    · exact decimalStrict_p _ _ _
    · exact ⟨rfl, rfl⟩
  · exact ⟨rfl, rfl⟩

/-! ### The shapes of instructions -/

section Shapes

variable {i : Instr} {s t : State}

theorem next_changesOnly {u : State} (h : (.next u : Result) = .next t) (hu : ChangesOnly i s u) : ChangesOnly i s t :=
  Host.Outcome.next.inj h ▸ hu

theorem implied_changesOnly {u : State} (h : implied u = .next t) (hu : ChangesOnly i s u) : ChangesOnly i s t :=
  next_changesOnly h (hu.trans (.advance u 1))

theorem withOperand_changesOnly {o : Operand} {effect : Byte → State → State} (h : withOperand o effect s = .next t)
    (he : ∀ m u, ChangesOnly i u (effect m u)) : ChangesOnly i s t := by
  obtain ⟨m, u, hv, rfl⟩ := withOperand_eq_next.mp h
  exact ((ChangesOnly.ofBus (value_spec hv)).trans (he m u)).trans (.advance _ _)

theorem storeAt_changesOnly {f : AddrForm} {m : Byte} (h : storeAt f m s = .next t) : ChangesOnly i s t := by
  obtain ⟨ea, u, w, he, hw, rfl⟩ := storeAt_eq_next.mp h
  exact ((ChangesOnly.ofBus (effectiveAddr_spec he)).trans (.ofWrite hw)).trans (.advance _ _)

theorem modifyAt_changesOnly {f : AddrForm} {op : Byte → Flags → Byte × Flags} (h : modifyAt f op s = .next t)
    (ho : ∀ m u, ChangesOnly i u (u.setP (op m u.p).2)) : ChangesOnly i s t := by
  obtain ⟨ea, u, m, w, x, he, -, hr, hw, rfl⟩ := modifyAt_eq_next.mp h
  have hbus : BusStep s w := (effectiveAddr_spec he).trans (read_spec hr)
  exact (((ChangesOnly.ofBus hbus).trans (.ofWrite hw)).trans (ho m x)).trans (.advance _ _)

theorem modifyA_changesOnly {op : Byte → Flags → Byte × Flags} (h : modifyA op s = .next t) (hi : i.writesA = true)
    (ho : ∀ m u, ChangesOnly i u (u.setP (op m u.p).2)) : ChangesOnly i s t :=
  next_changesOnly h (((ChangesOnly.setA (op s.a s.p).1 hi).trans (ho s.a _)).trans (.advance _ 1))

theorem branchIf_changesOnly {cond : Bool} {n : Byte} (h : branchIf cond n s = .next t) : ChangesOnly i s t := by
  refine next_changesOnly h ?_
  split
  · exact .jump s _
  · exact .advance s 2

theorem push_changesOnly {v : Byte} (h : bindNext (push v s) implied = .next t) (hs : i.writesS = true) :
    ChangesOnly i s t := by
  obtain ⟨u, hu, ht⟩ := bindNext_eq_next.mp h
  exact implied_changesOnly ht (.ofStack (push_spec hu).1 hs)

theorem pull_changesOnly {effect : Byte × State → Result} (h : bindNext (pull s) effect = .next t)
    (hs : i.writesS = true) (he : ∀ v u, effect (v, u) = .next t → ChangesOnly i u t) : ChangesOnly i s t := by
  obtain ⟨⟨v, u⟩, hu, ht⟩ := bindNext_eq_next.mp h
  exact (ChangesOnly.ofStack (pull_storeStep hu).1 hs).trans (he v u ht)

theorem execJmpInd_changesOnly {nn : Word} (h : execJmpInd nn s = .next t) : ChangesOnly i s t := by
  obtain ⟨⟨target, u⟩, hu, ht⟩ := bindNext_eq_next.mp h
  exact next_changesOnly ht ((ChangesOnly.ofBus (readPtr_spec hu)).trans (.jump u target))

theorem execJsr_changesOnly {nn : Word} (h : execJsr nn s = .next t) (hs : i.writesS = true) : ChangesOnly i s t := by
  obtain ⟨-, u, hu, rfl⟩ := execJsr_eq_next.mp h
  exact (ChangesOnly.ofStack (pushWord_spec hu).1 hs).trans (.jump u nn)

theorem execRts_changesOnly (h : execRts s = .next t) (hs : i.writesS = true) : ChangesOnly i s t := by
  obtain ⟨⟨ret, u⟩, hu, ht⟩ := bindNext_eq_next.mp h
  exact next_changesOnly ht ((ChangesOnly.ofStack (pullWord_spec hu).1 hs).trans (.jump u _))

theorem enter_changesOnly {ret vector : Word} {b : Bool} (h : enter ret b vector s = .next t) (hs : i.writesS = true)
    (hI : i.mnemonic.flagsWritten.i = true) : ChangesOnly i s t := by
  obtain ⟨u, w, target, x, hu, hw, hx, rfl⟩ := enter_eq_next.mp h
  have hstack : StoreStep s w := (pushWord_spec hu).1.trans (push_spec hw).1
  exact (((ChangesOnly.ofStack hstack hs).trans (.setI true hI)).trans (.ofBus (read16_spec hx))).trans (.jump x target)

theorem returnFrom_changesOnly (h : returnFrom s = .next t) (hs : i.writesS = true)
    (hp : i.mnemonic.flagsWritten = ⟨true, true, true, true, true, true⟩) : ChangesOnly i s t := by
  obtain ⟨v, u, target, w, hu, hw, rfl⟩ := returnFrom_eq_next.mp h
  exact (((ChangesOnly.ofStack (pull_storeStep hu).1 hs).trans (.setP _ hp)).trans
    (.ofStack (pullWord_spec hw).1 hs)).trans (.jump w target)

/-- The one case split over the 151 instructions: each changes only the registers and flags it is listed for. -/
theorem exec_changesOnly (h : exec i s = .next t) : ChangesOnly i s t := by
  cases i with
  | ldaImm | ldaZp | ldaZpx | ldaAbs | ldaAbsx | ldaAbsy | ldaIndx | ldaIndy
  | andImm | andZp | andZpx | andAbs | andAbsx | andAbsy | andIndx | andIndy
  | oraImm | oraZp | oraZpx | oraAbs | oraAbsx | oraAbsy | oraIndx | oraIndy
  | eorImm | eorZp | eorZpx | eorAbs | eorAbsx | eorAbsy | eorIndx | eorIndy =>
    simp only [exec] at h
    exact withOperand_changesOnly h fun _ _ => .setA_setNZ _ _ rfl rfl rfl
  | ldxImm | ldxZp | ldxZpy | ldxAbs | ldxAbsy =>
    simp only [exec] at h
    exact withOperand_changesOnly h fun _ _ => .setX_setNZ _ _ rfl rfl rfl
  | ldyImm | ldyZp | ldyZpx | ldyAbs | ldyAbsx =>
    simp only [exec] at h
    exact withOperand_changesOnly h fun _ _ => .setY_setNZ _ _ rfl rfl rfl
  | bitZp | bitAbs =>
    simp only [exec] at h
    exact withOperand_changesOnly h fun _ _ => .setNVZ _ _ _ rfl rfl rfl
  | adcImm | adcZp | adcZpx | adcAbs | adcAbsx | adcAbsy | adcIndx | adcIndy =>
    simp only [exec] at h
    exact withOperand_changesOnly h fun m u =>
      .arithmetic (adcEffect_registers m u).1 (adcEffect_p m u).1 (adcEffect_p m u).2 rfl rfl
  | sbcImm | sbcZp | sbcZpx | sbcAbs | sbcAbsx | sbcAbsy | sbcIndx | sbcIndy =>
    simp only [exec] at h
    exact withOperand_changesOnly h fun m u =>
      .arithmetic (sbcEffect_registers m u).1 (sbcEffect_p m u).1 (sbcEffect_p m u).2 rfl rfl
  | cmpImm | cmpZp | cmpZpx | cmpAbs | cmpAbsx | cmpAbsy | cmpIndx | cmpIndy
  | cpxImm | cpxZp | cpxAbs | cpyImm | cpyZp | cpyAbs =>
    simp only [exec] at h
    exact withOperand_changesOnly h fun _ _ => .setNZC _ _ _ rfl rfl rfl
  | staZp | staZpx | staAbs | staAbsx | staAbsy | staIndx | staIndy
  | stxZp | stxZpy | stxAbs | styZp | styZpx | styAbs =>
    simp only [exec] at h
    exact storeAt_changesOnly h
  | incZp | incZpx | incAbs | incAbsx | decZp | decZpx | decAbs | decAbsx =>
    simp only [exec] at h
    exact modifyAt_changesOnly h fun _ _ => .setNZ _ rfl rfl
  | aslZp | aslZpx | aslAbs | aslAbsx | lsrZp | lsrZpx | lsrAbs | lsrAbsx | rolZp | rolZpx | rolAbs | rolAbsx =>
    simp only [exec] at h
    exact modifyAt_changesOnly h fun _ _ => .setNZC _ _ _ rfl rfl rfl
  | rorZp | rorZpx | rorAbs | rorAbsx =>
    exact modifyAt_changesOnly (ifRor_eq_next.mp h).2 fun _ _ => .setNZC _ _ _ rfl rfl rfl
  | aslAcc | lsrAcc | rolAcc =>
    simp only [exec] at h
    exact modifyA_changesOnly h rfl fun _ _ => .setNZC _ _ _ rfl rfl rfl
  | rorAcc => exact modifyA_changesOnly (ifRor_eq_next.mp h).2 rfl fun _ _ => .setNZC _ _ _ rfl rfl rfl
  | txa | tya => exact implied_changesOnly h (.setA_setNZ _ _ rfl rfl rfl)
  | tax | tsx | inx | dex => exact implied_changesOnly h (.setX_setNZ _ _ rfl rfl rfl)
  | tay | iny | dey => exact implied_changesOnly h (.setY_setNZ _ _ rfl rfl rfl)
  | txs => exact implied_changesOnly h (.setSp _ rfl)
  | clc | sec => exact implied_changesOnly h (.setC _ rfl)
  | cld | sed => exact implied_changesOnly h (.setD _ rfl)
  | clv => exact implied_changesOnly h (.setV _ rfl)
  | cli | sei => exact next_changesOnly h (.trans (.setI _ rfl) (.advanceLagged _ _))
  | nop => exact next_changesOnly h (.advance s 1)
  | pha | php => exact push_changesOnly h rfl
  | pla => exact pull_changesOnly h rfl fun _ _ ht => implied_changesOnly ht (.setA_setNZ _ _ rfl rfl rfl)
  | plp =>
    exact pull_changesOnly h rfl fun _ _ ht => next_changesOnly ht (.trans (.setP _ rfl) (.advanceLagged _ _))
  | bpl | bmi | bvc | bvs | bcc | bcs | bne | beq => exact branchIf_changesOnly h
  | jmpAbs nn => exact next_changesOnly h (.jump s nn)
  | jmpInd => exact execJmpInd_changesOnly h
  | jsr => exact execJsr_changesOnly h rfl
  | rts => exact execRts_changesOnly h rfl
  | brk => exact enter_changesOnly h rfl rfl
  | rti => exact returnFrom_changesOnly h rfl rfl

end Shapes

/-! ### The constants in the table of R39 -/

theorem modifyAt_p {f : AddrForm} {op : Byte → Flags → Byte × Flags} {s t : State} (h : modifyAt f op s = .next t) :
    ∃ m, t.p = (op m s.p).2 := by
  obtain ⟨ea, u, m, w, x, he, -, hr, hw, rfl⟩ := modifyAt_eq_next.mp h
  have hp : x.p = s.p :=
    (write_storeStep hw).p_eq.trans ((read_spec hr).p_eq.trans (effectiveAddr_spec he).p_eq)
  exact ⟨m, by rw [advance_p, setP_p, hp]⟩

/-- LSR shifts a 0 into bit 7 (R171). -/
theorem exec_lsr_n {i : Instr} {s t : State} (h : exec i s = .next t) (hi : i.mnemonic = .lsr) : t.p.n = false := by
  cases i with
  | lsrAcc => exact Host.Outcome.next.inj h ▸ rfl
  | lsrZp | lsrZpx | lsrAbs | lsrAbsx =>
    simp only [exec] at h
    obtain ⟨m, hp⟩ := modifyAt_p h
    rw [hp]; rfl
  | _ => cases hi

/-- Taking an exception sets I (R208, R226). -/
theorem enter_i {ret vector : Word} {b : Bool} {s t : State} (h : enter ret b vector s = .next t) : t.p.i = true := by
  obtain ⟨u, w, target, x, -, -, hx, rfl⟩ := enter_eq_next.mp h
  rw [jump_p, (read16_spec hx).p_eq, setP_p]

theorem exec_brk_i {i : Instr} {s t : State} (h : exec i s = .next t) (hi : i.mnemonic = .brk) : t.p.i = true := by
  cases i with
  | brk => exact enter_i h
  | _ => cases hi

/-- Settles O43: the frame is `exec_changesOnly`, the two constants those of LSR and of an exception. -/
theorem flagsChangeOnlyAsTabled : Obligations.FlagsChangeOnlyAsTabled := by
  intro i s t h
  have k := exec_changesOnly h
  exact ⟨k.flagN, k.flagV, k.flagD, k.flagI, k.flagZ, k.flagC, exec_lsr_n h, exec_brk_i h⟩

/-- Settles O44: the registers by `exec_changesOnly`, what no instruction writes by `exec_kept`. -/
theorem registersChangeOnlyByTheirWriters : Obligations.RegistersChangeOnlyByTheirWriters := by
  intro i s t h
  have k := exec_changesOnly h
  have hk := exec_kept h
  exact ⟨k.a, k.x, k.y, k.sp, hk.nmiPrev, hk.nmiPending, hk.inputs, hk.environment, hk.time, hk.cfg⟩

end Sys2Proof.Machine
end

section
/-! The invariant of a step, and what an access does at each kind of cell (R50, R54, R60). -/

namespace Sys2Proof.Machine

/-! ### The invariant -/

/-- What `Kept` says is enough for the invariant: the platform stays, memory stays canonical, and each new event is at a
device cell. -/
theorem Kept.inv {s t : State} (k : Kept s t) (h : s.Inv) : t.Inv := by
  obtain ⟨hwf, halias, hdevices⟩ := h
  obtain ⟨l, hl, hnew⟩ := k.history
  refine ⟨k.wf hwf, by rwa [k.cfg], fun e he => ?_⟩
  rw [hl] at he
  rw [k.cfg]
  exact (List.mem_append.mp he).elim (hnew e) (hdevices e)

/-- Settles O6: sampling the lines changes nothing that the invariant speaks of, and `step_kept` covers the rest of a
step of any kind. -/
theorem everyStepKeepsInvariant : Obligations.EveryStepKeepsInvariant := by
  intro s t h hstep
  have hsampled : s.sampled.Inv := h
  exact (step_kept hstep).elim (·.inv hsampled) (·.inv hsampled)

/-! ### One access at each kind of cell -/

section Access

variable {s : State} {a : Word} {v : Byte}

theorem read_undrawn (h : s.kindAt a = .unpopulated) (hp : s.cfg.platform.onNoneRead = .fault) :
    read a s = .fault (.unpopulatedAccess a) := by
  simp only [read, h, hp]

theorem write_device {b : Bool} (h : s.kindAt a = .device b) :
    write a v s = .next (s.record (.write (s.cell a) v)) := by
  simp only [write, h]

theorem write_unpopulated (h : s.kindAt a = .unpopulated) : write a v s = .next s := by
  simp only [write, h]

theorem write_rom_ignored (h : s.kindAt a = .rom) (hp : s.cfg.platform.onRomWrite = .ignore) :
    write a v s = .next s := by
  simp only [write, h, hp]

end Access

/-- Settles O55: one rule for each kind of cell, and at an empty address or ROM for each value of the parameter. -/
theorem platformAnswersEachAccess : Obligations.PlatformAnswersEachAccess := by
  intro s a v
  refine ⟨read_memory, fun b hk => ⟨read_device hk, write_device hk⟩, fun hk => ?_, fun hk => ?_, (write_ram · v)⟩
  · exact ⟨read_drawn hk, read_undrawn hk, write_unpopulated hk⟩
  · exact ⟨write_rom_ignored hk, fun hp => write_rom fun hmay => hmay ⟨hk, hp⟩⟩

/-! ### A read after a write -/

theorem kindAt_of_cell_eq {s : State} {a b : Word} (h : s.cell b = s.cell a) : s.kindAt b = s.kindAt a := by
  rw [State.kindAt, h, State.kindAt]

/-- Of two writes to one cell of a canonical memory, only the second is seen. -/
theorem memory_write_write {m : Memory} (h : m.wf) {a : Nat} (ha : a < 65536) (v w : Byte) :
    (m.write a v).write a w = m.write a w := by
  refine memory_ext (memory_wf_write (memory_wf_write h ha v) ha w) (memory_wf_write h ha w) fun b => ?_
  by_cases hb : a = b
  · subst hb
    rw [memory_read_write_same, memory_read_write_same]
  · rw [memory_read_write_other _ _ hb, memory_read_write_other _ _ hb, memory_read_write_other _ _ hb]

theorem storeCell_storeCell {s : State} (h : s.mem.wf) {a b : Word} (hcell : s.cell b = s.cell a) (v w : Byte) :
    (s.storeCell a v).storeCell b w = s.storeCell a w := by
  rw [State.storeCell, storeCell_cell, hcell, storeCell_mem, memory_write_write h (s.cell a).isLt]; rfl

/-- Settles O56: the write is a `State.storeCell`, which changes the bytes of one cell and what answers nowhere. -/
theorem readGivesMostRecentWrite : Obligations.ReadGivesMostRecentWrite := by
  intro s t a b v w hram hwrite
  obtain rfl : s.storeCell a v = t := Host.Outcome.next.inj ((write_ram hram v).symm.trans hwrite)
  have same : ∀ c, s.cell c = s.cell a → read c (s.storeCell a v) = .next (v, s.storeCell a v) := fun c hc => by
    have hk : (s.storeCell a v).IsMemory c := .inl ((kindAt_of_cell_eq hc).trans hram)
    rw [read_memory hk, storeCell_byteAt_same hc]
  refine ⟨same b, fun hc hk => ?_, fun halias => same _ (halias a), fun hwf hc => ?_⟩
  · have hk' : (s.storeCell a v).IsMemory b := hk
    rw [read_memory hk', storeCell_byteAt_other hc]
  · have hb : (s.storeCell a v).IsRam b := (kindAt_of_cell_eq hc).trans hram
    rw [write_ram hb, write_ram hram, storeCell_storeCell hwf hc]

end Sys2Proof.Machine
end

section
/-! JSR (R191): its two pushes, where they stop, and where it is refused (U13). -/

namespace Sys2Proof.Machine

section PushedWord

variable {s u v : State} {w : Word}

/-- A pushed PC is two writes to the two cells from S down, the high byte first, and S two less (R27, R55). -/
theorem pushWord_writes (hu : write (stackAddr s.sp) (highByte w) s = .next u)
    (hv : write (stackAddr (s.sp - 1#8)) (lowByte w) u = .next v) : pushWord w s = .next (v.setSp (s.sp - 2#8)) := by
  have hsp : s.sp - 1#8 - 1#8 = s.sp - 2#8 := by bv_omega
  have husp : u.sp = s.sp := by rw [(write_spec hu).1]
  have hv' := write_congr (s := u) (s' := u.setSp (s.sp - 1#8)) rfl rfl rfl hv
  rw [pushWord, push, hu, bindNext_next, bindNext_next, husp, push, setSp_sp, hv', bindNext_next, setSp_sp, hsp,
    (write_spec hv).1]
  rfl

theorem pushWord_fault_high (h : ¬ s.MayStore (stackAddr s.sp)) :
    pushWord w s = .fault (.writeToRom (stackAddr s.sp)) := by
  rw [pushWord, push, write_rom h, bindNext_fault, bindNext_fault]

theorem pushWord_fault_low (h : s.MayStore (stackAddr s.sp)) (h' : ¬ s.MayStore (stackAddr (s.sp - 1#8))) :
    pushWord w s = .fault (.writeToRom (stackAddr (s.sp - 1#8))) := by
  obtain ⟨u, hu⟩ := push_completes (highByte w) h
  obtain ⟨hstep, hsp, -⟩ := push_spec hu
  have hlow : ¬ u.MayStore (stackAddr (s.sp - 1#8)) := by rwa [State.MayStore, hstep.kindAt_eq, hstep.cfg_eq]
  rw [pushWord, hu, bindNext_next, push, hsp, write_rom hlow, bindNext_fault]

end PushedWord

/-- Settles O38: `execJsr_overlap` where it is refused; elsewhere JSR is `pushWord` of its last byte's address and a
jump. -/
theorem jsrPushesItsLastByteAddress : Obligations.JsrPushesItsLastByteAddress := by
  intro s nn
  simp only [← stackAddr_eq]
  refine ⟨execJsr_overlap, fun hclear => ?_⟩
  have hexec : exec (.jsr nn) s = bindNext (pushWord (s.pc + 2#16) s) fun u => .next (u.jump nn) := execJsr_clear hclear
  rw [hexec]
  refine ⟨fun ha hb => ?_, fun ha hb => ?_, fun ha => ?_, fun ha hb => ?_⟩
  · rw [pushWord_ram ha hb]; rfl
  · obtain ⟨u, hu⟩ := write_completes (highByte (s.pc + 2#16)) ha
    have hstep := write_storeStep hu
    have hb' : u.MayStore (stackAddr (s.sp - 1#8)) := by rwa [State.MayStore, hstep.kindAt_eq, hstep.cfg_eq]
    obtain ⟨v, hv⟩ := write_completes (lowByte (s.pc + 2#16)) hb'
    have hi : v.p.i = s.p.i := by rw [(write_storeStep hv).p_eq, hstep.p_eq]
    refine ⟨u, v, hu, hv, ?_⟩
    rw [pushWord_writes hu hv, ← hi]; rfl
  · rw [pushWord_fault_high ha]; rfl
  · rw [pushWord_fault_low ha hb]; rfl

end Sys2Proof.Machine
end

section
/-! Which accesses near a device with side effects are refused (R62, R63, U12). -/

namespace Sys2Proof.Machine

/-! ### Sums of addresses over the natural numbers -/

theorem ofNat_toNat_eq_zext (n : Byte) : BitVec.ofNat 16 n.toNat = zext n := by
  apply BitVec.eq_of_toNat_eq
  rw [zext_toNat, BitVec.toNat_ofNat, Nat.mod_eq_of_lt (by have := n.isLt; omega)]

/-- The sum of the page zero forms, which stays in page 0 (R95, R96). -/
theorem ofNat_mod_eq_zext_add (n x : Byte) : BitVec.ofNat 16 ((n.toNat + x.toNat) % 256) = zext (n + x) := by
  rw [← ofNat_toNat_eq_zext, BitVec.toNat_add]

/-- The sum of the absolute forms, with its carry (R98, R99). -/
theorem ofNat_add_eq_add_zext (nn : Word) (x : Byte) : BitVec.ofNat 16 (nn.toNat + x.toNat) = nn + zext x := by
  rw [ofNat_toNat_add, ofNat_toNat_eq_zext]

/-! ### Refusals -/

section Refusals

variable {s u : State} {i : Instr} {f : AddrForm} {ea : Word} {n : Byte} {nn : Word}

theorem guardExtra_near (hp : s.cfg.extraBus = .refuse) (h : s.NearDevice ea) :
    guardExtra ea s = .refused (.deviceExtraAccess ea) := guardExtra_clash (extraClash_iff.mpr ⟨hp, h⟩)

/-- Accesses made on the way to an address do not change whether it is near a device. -/
theorem guardExtra_near_of_bus (hb : BusStep s u) (hp : s.cfg.extraBus = .refuse) (h : s.NearDevice ea) :
    guardExtra ea u = .refused (.deviceExtraAccess ea) :=
  guardExtra_near (hb.cfg_eq ▸ hp) ((nearDevice_of_cfg_eq hb.cfg_eq).mpr h)

theorem modifies_near (hi : (i, f) ∈ Forms.modifies n nn) (hror : i.mnemonic = .ror → s.cfg.hasRor = true)
    (hea : effectiveAddr f s = .next (ea, u)) (hp : s.cfg.extraBus = .refuse) (h : s.NearDevice ea) :
    exec i s = .refused (.deviceExtraAccess ea) := by
  obtain ⟨op, hexec⟩ := modifies_shape n nn (i, f) hi
  have hclash : u.extraClash ea = true := by rw [extraClash_bus (effectiveAddr_spec hea)]; exact extraClash_iff.mpr ⟨hp, h⟩
  rw [hexec s hror, modifyAt_clash hea hclash]

/-- The forms `n` and `nn` name their address in the instruction itself: nothing is read or tested on the way. -/
theorem effectiveAddr_direct (h : f = .zp n ∨ f = .abs nn) (s : State) : ∃ ea, effectiveAddr f s = .next (ea, s) := by
  rcases h with rfl | rfl
  · exact ⟨_, rfl⟩
  · exact ⟨_, rfl⟩

theorem withOperand_not_refused {effect : Byte → State → State} (hea : effectiveAddr f s = .next (ea, u)) {r : Refusal} :
    withOperand (.mem f) effect s ≠ .refused r := by
  simp [withOperand, Operand.value, hea, bindNext_eq_refused, read_not_refused]

theorem storeAt_not_refused {v : Byte} (hea : effectiveAddr f s = .next (ea, u)) {r : Refusal} :
    storeAt f v s ≠ .refused r := by
  simp [storeAt, hea, bindNext_eq_refused, write_not_refused]

end Refusals

/-- Settles O58: the test is `extraClash_iff`; each indexed and indirect form ends in `guardExtra` of the address it
forms; and each table has one shape, which stops where its form does. -/
theorem deviceNeighboursAreRefused : Obligations.DeviceNeighboursAreRefused := by
  intro s
  simp only [ofNat_mod_eq_zext_add, ofNat_add_eq_add_zext, ofNat_toNat_eq_zext]
  refine ⟨fun ea => extraClash_iff, fun hp n nn => ?_, fun n nn i f => ⟨fun r hr => ?_, fun hf htable r => ?_⟩⟩
  · refine ⟨guardExtra_near hp, guardExtra_near hp, guardExtra_near hp, guardExtra_near hp, fun ea u hptr hnear => ?_,
      fun base u hptr hnear => ?_, fun i f ea u hi hror hea hnear => modifies_near hi hror hea hp hnear⟩
    · rw [effectiveAddr, hptr]
      exact guardExtra_near_of_bus (readPtr_spec hptr) hp hnear
    · have hb := readPtr_spec hptr
      simp only [effectiveAddr, hptr, bindNext_next, hb.y_eq]
      exact guardExtra_near_of_bus hb hp hnear
  · refine ⟨fun hi => ?_, fun hi => ?_, fun hi hror => ?_⟩
    · obtain ⟨effect, hexec⟩ := reads_shape n nn _ hi
      exact (hexec s).trans (withOperand_refused hr)
    · obtain ⟨v, hexec⟩ := stores_shape n nn _ hi
      exact (hexec s).trans (storeAt_refused hr)
    · obtain ⟨op, hexec⟩ := modifies_shape n nn _ hi
      exact (hexec s hror).trans (modifyAt_refused hr)
  · obtain ⟨ea, hea⟩ := effectiveAddr_direct hf s
    rcases htable with hi | hi
    · obtain ⟨effect, hexec⟩ := reads_shape n nn _ hi
      exact hexec s ▸ withOperand_not_refused hea
    · obtain ⟨v, hexec⟩ := stores_shape n nn _ hi
      exact hexec s ▸ storeAt_not_refused hea

end Sys2Proof.Machine
end

section
/-! The instruction after a store or a read-modify-write that overwrites its bytes (R61). -/

namespace Sys2Proof.Machine

/-- The state `t` comes after `s` with the byte `v` in the cell that `ea` names and every other byte kept, on the same
platform, and its next instruction is at `pc`. -/
structure Overwrote (s : State) (ea : Word) (v : Byte) (pc : Word) (t : State) : Prop where
  cfg : t.cfg = s.cfg
  pc : t.pc = pc
  byteAt : ∀ b, t.byteAt b = if s.cell b = s.cell ea then v else s.byteAt b

section Overwriting

variable {s s1 t : State} {f : AddrForm} {ea pc : Word} {v : Byte} {i j : Instr} {n : Byte} {nn : Word}

/-- A store into RAM alone overwrites one cell. -/
theorem StoredOnly.overwrote {h : List DeviceEvent} (k : StoredOnly s ea v h t) (hram : s.IsRam ea)
    (hcfg : t.cfg = s.cfg) (hpc : t.pc = pc) : Overwrote s ea v pc t where
  cfg := hcfg
  pc := hpc
  byteAt b := by
    split
    · next hb =>
      have hb' : t.cell b = t.cell ea := by simpa only [State.cell, hcfg] using hb
      rw [State.byteAt, hb']
      exact k.inRam hram
    · next hb => exact k.elsewhere b hb

theorem mayStore_of_isRam (h : s.IsRam ea) : s.MayStore ea := fun hrom => by simp [h] at hrom

theorem storeAt_overwrote (hea : effectiveAddr f s = .next (ea, s1)) (hram : s.IsRam ea)
    (h : storeAt f v s = .next t) : Overwrote s ea v (s.pc + BitVec.ofNat 16 f.length) t := by
  obtain ⟨t', ht', hstored, hsame⟩ := storeAt_next (v := v) hea (mayStore_of_isRam hram)
  obtain rfl : t' = t := Host.Outcome.next.inj (ht'.symm.trans h)
  exact hstored.overwrote hram (by rw [hsame]) (by rw [hsame])

theorem modifyAt_overwrote {op : Byte → Flags → Byte × Flags} (hea : effectiveAddr f s = .next (ea, s1))
    (hram : s.IsRam ea) (h : modifyAt f op s = .next t) :
    ∃ v, Overwrote s ea v (s.pc + BitVec.ofNat 16 f.length) t := by
  have hb := effectiveAddr_spec hea
  have hclear : s.extraClash ea = false := by
    rw [← extraClash_bus hb]
    refine Bool.eq_false_iff.mpr fun hc => ?_
    exact absurd ((modifyAt_clash hea hc).symm.trans h) nofun
  have hread : read ea s1 = .next (s1.byteAt ea, s1) := read_memory (.inl ((hb.kindAt_eq ea).trans hram))
  obtain ⟨t', ht', hstored, hsame⟩ := modifyAt_next (op := op) hea hclear hread (mayStore_of_isRam hram)
  obtain rfl : t' = t := Host.Outcome.next.inj (ht'.symm.trans h)
  exact ⟨_, hstored.overwrote hram (by rw [hsame]) (by rw [hsame])⟩

/-- The byte that was stored is the one that stands there afterwards. -/
theorem Overwrote.byte_eq (k : Overwrote s ea v pc t) : t.byteAt ea = v := by
  rw [k.byteAt, if_pos rfl]

/-! ### The tables -/

theorem sta_shape : ∀ io ∈ Forms.sta n nn, exec io.1 s = storeAt io.2 s.a s := by
  simp only [Forms.sta, List.forall_mem_cons, List.not_mem_nil, false_implies, implies_true, and_true]
  and_intros <;> rfl

theorem stx_shape : ∀ io ∈ Forms.stx n nn, exec io.1 s = storeAt io.2 s.x s := by
  simp only [Forms.stx, List.forall_mem_cons, List.not_mem_nil, false_implies, implies_true, and_true]
  and_intros <;> rfl

theorem sty_shape : ∀ io ∈ Forms.sty n nn, exec io.1 s = storeAt io.2 s.y s := by
  simp only [Forms.sty, List.forall_mem_cons, List.not_mem_nil, false_implies, implies_true, and_true]
  and_intros <;> rfl

theorem modifies_overwrote (hi : (i, f) ∈ Forms.modifies n nn) (hea : effectiveAddr f s = .next (ea, s1))
    (hram : s.IsRam ea) (h : exec i s = .next t) : ∃ v, Overwrote s ea v (s.pc + BitVec.ofNat 16 f.length) t := by
  have hror : ¬ s.LacksRor i := fun hlacks => absurd ((exec_of_lacksRor hlacks).symm.trans h) nofun
  obtain ⟨op, hexec⟩ := modifies_shape n nn _ hi
  exact modifyAt_overwrote hea hram ((hexec s (hasRor_of_not_lacksRor hror)).symm.trans h)

/-- The step after an overwriting runs what the bytes then at PC decode to. -/
theorem Overwrote.step_eq (k : Overwrote s ea v pc t) {byte : Word → Byte} {rest : List Byte}
    (hbyte : ∀ d, byte d = if s.cell (pc + d) = s.cell ea then v else s.byteAt (pc + d))
    (hm : ∀ d, d < j.length → s.IsMemory (pc + BitVec.ofNat 16 d))
    (hd : decode [byte 0#16, byte 1#16, byte 2#16] = .ok (j, rest))
    (hev : nextEvent t.boundary t.sampled = .instruction) : step t = exec j t.sampled := by
  have hat : ∀ d, t.byteAt (t.pc + d) = byte d := fun d => by rw [k.pc, k.byteAt, hbyte]
  refine stepRunsDecodedInstruction t j rest hev (fun d hlt => ?_) ?_
  · rw [State.IsMemory, kindAt_of_cfg_eq k.cfg, k.pc]
    exact hm d hlt
  · rw [hat, hat, ← hd, ← hat 0#16, BitVec.add_zero]

end Overwriting

/-- Settles O59: whichever table the instruction is of, it overwrites the one cell, and the fetch reads the bytes as they
are then. -/
theorem storeIsSeenByTheNextFetch : Obligations.StoreIsSeenByTheNextFetch := by
  intro n nn i j f s s1 t ea v rest hi hea hram h pc byte hm hd hev
  have hover : Overwrote s ea v pc t := by
    rcases hi with ⟨hi, rfl⟩ | ⟨hi, rfl⟩ | ⟨hi, rfl⟩ | ⟨hi, rfl⟩
    · exact storeAt_overwrote hea hram ((sta_shape _ hi).symm.trans h)
    · exact storeAt_overwrote hea hram ((stx_shape _ hi).symm.trans h)
    · exact storeAt_overwrote hea hram ((sty_shape _ hi).symm.trans h)
    · obtain ⟨v, k⟩ := modifies_overwrote hi hea hram h
      rwa [k.byte_eq]
  exact hover.step_eq (fun _ => rfl) hm hd hev

end Sys2Proof.Machine
end

section
/-! The decoder undoes the encoder, and the opcode byte alone selects the mnemonic and the length (R80 to R84, R88). -/

namespace Sys2Proof

open Machine

/-! ### Encoded bytes -/

/-- The bytes of an encoding decode to its instruction, whatever follows them (R83, R84). -/
theorem decode_encode_append (i : Instr) (rest : List Byte) : decode (encode i ++ rest) = .ok (i, rest) := by
  obtain ⟨sh, hshape, hmakes⟩ := shapeOf_opcode i
  simp only [encode, List.cons_append, decode, hshape]
  cases sh with
  | one j =>
    obtain ⟨hj, hbytes⟩ := hmakes
    simp only [hbytes, List.nil_append, hj]
  | two f =>
    obtain ⟨n, hf, hbytes⟩ := hmakes
    simp only [hbytes, List.cons_append, List.nil_append, hf]
  | three f =>
    obtain ⟨nn, hf, hbytes⟩ := hmakes
    simp only [hbytes, wordBytes, List.cons_append, List.nil_append, word_high_low, hf]

/-- Settles O1: every row of the chart fits the encodings of its instructions, and every instruction has its row. -/
theorem decodeIffEncoded : Obligations.DecodeIffEncoded := fun _ rest i =>
  ⟨eq_encode_append_of_decode, fun h => h ▸ decode_encode_append i rest⟩

/-! ### The opcode byte -/

/-- The instruction of a shape whose operand is zero: it stands for all of the shape. -/
def Shape.atZero : Shape → Instr
  | .one i => i
  | .two f => f 0x00#8
  | .three f => f 0x0000#16

/-- What the chart holds for an opcode has one mnemonic and one length, whatever the operand (R80, R82). -/
theorem shapeOf_opcode_atZero (i : Instr) :
    (shapeOf i.opcode).map (fun sh => (sh.atZero.mnemonic, sh.atZero.length)) = some (i.mnemonic, i.length) := by
  cases i <;> simp only [Instr.opcode] <;> rfl

theorem mnemonic_length_of_opcode_eq {i j : Instr} (h : i.opcode = j.opcode) :
    i.mnemonic = j.mnemonic ∧ i.length = j.length := by
  have hi := shapeOf_opcode_atZero i
  rw [h, shapeOf_opcode_atZero j] at hi
  obtain ⟨hmnemonic, hlength⟩ := Prod.mk.inj (Option.some.inj hi)
  exact ⟨hmnemonic.symm, hlength.symm⟩

theorem opcode_eq_of_decode {op : Byte} {tail rest : List Byte} {i : Instr} (h : decode (op :: tail) = .ok (i, rest)) :
    i.opcode = op :=
  (List.cons.inj (eq_encode_append_of_decode h)).1.symm

theorem rest_eq_drop_of_decode {bytes rest : List Byte} {i : Instr} (h : decode bytes = .ok (i, rest)) :
    rest = bytes.drop i.length := by
  rw [eq_encode_append_of_decode h, List.drop_left' (encode_length i)]

/-- Settles O4: both instructions have the one opcode, and each decoding takes the bytes of its encoding off. -/
theorem firstByteFixesLengthAndMnemonic : Obligations.FirstByteFixesLengthAndMnemonic := by
  intro op r1 r2 rest1 rest2 i j hi hj
  obtain ⟨hmnemonic, hlength⟩ :=
    mnemonic_length_of_opcode_eq ((opcode_eq_of_decode hi).trans (opcode_eq_of_decode hj).symm)
  exact ⟨hmnemonic, hlength, rest_eq_drop_of_decode hi, hlength ▸ rest_eq_drop_of_decode hj⟩

end Sys2Proof
end

section
/-! Pointers and the operand forms in memory, as sums of natural numbers (R93 to R102). -/

namespace Sys2Proof.Machine

/-! ### A pointer in memory -/

section Pointers

variable {s : State} {p : Word}

/-- A pointer crosses a page where its address ends in FF (R101). -/
theorem lowByte_eq_ff_iff (p : Word) : lowByte p = 0xFF#8 ↔ p.toNat % 256 = 255 := by
  rw [BitVec.toNat_inj.symm, lowByte_toNat]; rfl

theorem ptrHighAddr_of_inPage (h : p.toNat % 256 ≠ 255) : ptrHighAddr p = p + 1#16 :=
  if_neg (mt (lowByte_eq_ff_iff p).mp h)

/-- Past the end of a page the machine takes offset 0 of the same page (R101). -/
theorem ptrHighAddr_of_pageEnd (h : p.toNat % 256 = 255) : ptrHighAddr p = BitVec.ofNat 16 (p.toNat - 255) := by
  have hp := p.isLt
  rw [ptrHighAddr, if_pos ((lowByte_eq_ff_iff p).mpr h)]
  apply BitVec.eq_of_toNat_eq
  rw [word_toNat, highByte_toNat, BitVec.toNat_ofNat, BitVec.toNat_ofNat]
  omega

/-- A pointer whose two bytes are in memory is the word they hold, and reading it changes nothing. -/
theorem readPtr_memory (hcross : ¬ (lowByte p = 0xFF#8 ∧ s.cfg.ptrPageCross = .fault)) (hlow : s.IsMemory p)
    (hhigh : s.IsMemory (ptrHighAddr p)) :
    readPtr p s = .next (word (s.byteAt (ptrHighAddr p)) (s.byteAt p), s) :=
  readPtr_eq_next.mpr ⟨_, s, _, read_memory hlow, hcross, read_memory hhigh, rfl⟩

theorem readPtr_inPage (h : p.toNat % 256 ≠ 255) (hlow : s.IsMemory p) (hhigh : s.IsMemory (p + 1#16)) :
    readPtr p s = .next (word (s.byteAt (p + 1#16)) (s.byteAt p), s) := by
  have haddr := ptrHighAddr_of_inPage h
  have hread := readPtr_memory (fun hc => h ((lowByte_eq_ff_iff p).mp hc.1)) hlow (haddr.symm ▸ hhigh)
  rwa [haddr] at hread

theorem readPtr_pageEnd_fault (h : p.toNat % 256 = 255) (hp : s.cfg.ptrPageCross = .fault) (hlow : s.IsMemory p) :
    readPtr p s = .fault (.pointerPageCross p) := by
  rw [readPtr, read_memory hlow]
  exact if_pos ⟨(lowByte_eq_ff_iff p).mpr h, hp⟩

theorem zext_inPage {n : Byte} (h : n.toNat ≠ 255) : (zext n).toNat % 256 ≠ 255 := by
  have := n.isLt
  rw [zext_toNat]; omega

end Pointers

/-- Settles O16: the test comes before the second read, which goes to `ptrHighAddr`. -/
theorem pointerPageCrossAsParameterSays : Obligations.PointerPageCrossAsParameterSays := by
  intro s p hend hlow
  rw [← ptrHighAddr_of_pageEnd hend]
  refine ⟨fun hp => readPtr_pageEnd_fault hend hp hlow, fun hp hhigh => readPtr_memory ?_ hlow hhigh⟩
  rintro ⟨-, hfault⟩
  exact nomatch hp.symm.trans hfault

/-! ### The forms -/

section Forms

variable {s : State} {n : Byte}

/-- `(n,X)`: the pointer is in page 0 at `n + X`, and its word is the address (R100). -/
theorem effectiveAddr_indx {ea : Word} (hptr : readPtr (zext (n + s.x)) s = .next (ea, s))
    (hclear : s.extraClash ea = false) : effectiveAddr (.indx n) s = .next (ea, s) := by
  rw [effectiveAddr, hptr]
  exact guardExtra_clear hclear

/-- `(n),Y`: the pointer is in page 0 at `n`, and Y is added to its word (R102). -/
theorem effectiveAddr_indy {base : Word} (hptr : readPtr (zext n) s = .next (base, s))
    (hclear : s.extraClash (base + zext s.y) = false) :
    effectiveAddr (.indy n) s = .next (base + zext s.y, s) := by
  rw [effectiveAddr, hptr]
  exact guardExtra_clear hclear

theorem value_mem_memory {f : AddrForm} {ea : Word} (hea : effectiveAddr f s = .next (ea, s)) (hm : s.IsMemory ea) :
    (Operand.mem f).value s = .next (s.byteAt ea, s) := by
  rw [Operand.value, hea]
  exact read_memory hm

/-! The sums of the two indirect forms, as the model writes them. -/

theorem ofNat_succ_eq_zext_add_one (n : Byte) : BitVec.ofNat 16 (n.toNat + 1) = zext n + 1#16 := by
  rw [BitVec.ofNat_add, ofNat_toNat_eq_zext]

theorem ofNat_add_eq_word_add_zext (hi lo y : Byte) :
    BitVec.ofNat 16 (hi.toNat * 256 + lo.toNat + y.toNat) = word hi lo + zext y := by
  rw [← word_toNat, ofNat_add_eq_add_zext]

end Forms

/-- Settles O15: written with `zext` and `word`, each sum is what `effectiveAddr` hands to `guardExtra`, the two
indirect ones after a pointer that `readPtr_inPage` reads. -/
theorem operandFormsReachTheirAddress : Obligations.OperandFormsReachTheirAddress := by
  intro s n nn
  simp only [ofNat_mod_eq_zext_add, ofNat_add_eq_add_zext, ofNat_succ_eq_zext_add_one, ofNat_add_eq_word_add_zext,
    ofNat_toNat_eq_zext]
  refine ⟨rfl, rfl, rfl, guardExtra_clear, guardExtra_clear, guardExtra_clear, guardExtra_clear,
    fun hpage hlow hhigh => ?_, fun hpage hlow hhigh => ?_, fun f ea => value_mem_memory⟩
  · rw [← BitVec.toNat_add] at hpage
    exact effectiveAddr_indx (readPtr_inPage (zext_inPage hpage) hlow hhigh)
  · exact effectiveAddr_indy (readPtr_inPage (zext_inPage hpage) hlow hhigh)

end Sys2Proof.Machine
end

section
/-! Loads and stores, in every form (R110 to R115). -/

namespace Sys2Proof.Machine

section LoadTables

variable {s : State} {n : Byte} {nn : Word}

theorem lda_shape : ∀ io ∈ Forms.lda n nn, exec io.1 s = withOperand io.2 loadA s := by
  simp only [Forms.lda, List.forall_mem_cons, List.not_mem_nil, false_implies, implies_true, and_true]
  and_intros <;> rfl

theorem ldx_shape : ∀ io ∈ Forms.ldx n nn, exec io.1 s = withOperand io.2 loadX s := by
  simp only [Forms.ldx, List.forall_mem_cons, List.not_mem_nil, false_implies, implies_true, and_true]
  and_intros <;> rfl

theorem ldy_shape : ∀ io ∈ Forms.ldy n nn, exec io.1 s = withOperand io.2 loadY s := by
  simp only [Forms.ldy, List.forall_mem_cons, List.not_mem_nil, false_implies, implies_true, and_true]
  and_intros <;> rfl

end LoadTables

/-- N is bit 7 of the result (R13). -/
theorem withNZ_eq (p : Flags) (r : Byte) : p.withNZ r = { p with n := r.getLsbD 7, z := r == 0#8 } := by
  rw [Flags.withNZ, BitVec.msb_eq_getLsbD_last]

/-- Settles O13: each form is `withOperand` of its load, and the load sets its register, then N and Z. -/
theorem loadsCopyTheirOperand : Obligations.LoadsCopyTheirOperand := by
  refine ⟨readForms_of (fun _ _ io hio _ => lda_shape io hio) fun s m ev dr len _ => ?_,
    readForms_of (fun _ _ io hio _ => ldx_shape io hio) fun s m ev dr len _ => ?_,
    readForms_of (fun _ _ io hio _ => ldy_shape io hio) fun s m ev dr len _ => ?_⟩
  · rw [loadA, State.setNZ, withNZ_eq]; rfl
  · rw [loadX, State.setNZ, withNZ_eq]; rfl
  · rw [loadY, State.setNZ, withNZ_eq]; rfl

/-- Settles O14: each form is `storeAt` of its register, of which `storeForms_of` says what it leaves. -/
theorem storesWriteOnlyTheirCell : Obligations.StoresWriteOnlyTheirCell :=
  ⟨storeForms_of fun _ _ io hio _ => sta_shape io hio, storeForms_of fun _ _ io hio _ => stx_shape io hio,
    storeForms_of fun _ _ io hio _ => sty_shape io hio⟩

end Sys2Proof.Machine
end

section
/-! The instructions that leave memory as it was (R116, R128, R138). -/

namespace Sys2Proof.Machine

theorem adcEffect_mem (m : Byte) (s : State) : (adcEffect m s).mem = s.mem := by rw [(adcEffect_registers m s).1]

theorem sbcEffect_mem (m : Byte) (s : State) : (sbcEffect m s).mem = s.mem := by rw [(sbcEffect_registers m s).1]

section MemoryFrame

variable {s t : State}

theorem next_mem {u : State} (h : (.next u : Result) = .next t) (hu : u.mem = s.mem) : t.mem = s.mem :=
  Host.Outcome.next.inj h ▸ hu

/-- An access that leaves memory as it was, and then a change of registers alone. -/
theorem bindNext_mem {α : Type} {r : Access α} {f : α × State → Result} (h : bindNext r f = .next t)
    (hr : ∀ v u, r = .next (v, u) → u.mem = s.mem) (hf : ∀ v u, f (v, u) = .next t → t.mem = u.mem) :
    t.mem = s.mem := by
  obtain ⟨⟨v, u⟩, hu, ht⟩ := bindNext_eq_next.mp h
  exact (hf v u ht).trans (hr v u hu)

theorem pull_mem {v : Byte} (h : pull s = .next (v, t)) : t.mem = s.mem := (pull_spec h).mem_eq

theorem pullWord_mem {v : Word} (h : pullWord s = .next (v, t)) : t.mem = s.mem := (pullWord_spec h).2.2

theorem withOperand_mem {o : Operand} {effect : Byte → State → State} (h : withOperand o effect s = .next t)
    (he : ∀ m u, (effect m u).mem = u.mem) : t.mem = s.mem :=
  bindNext_mem h (fun _ _ hv => (value_spec hv).mem_eq) fun m u ht => next_mem ht (he m u)

theorem branchIf_mem {cond : Bool} {n : Byte} (h : branchIf cond n s = .next t) : t.mem = s.mem := by
  refine next_mem h ?_
  split <;> rfl

theorem returnFrom_mem (h : returnFrom s = .next t) : t.mem = s.mem := by
  obtain ⟨v, u, target, w, hu, hw, rfl⟩ := returnFrom_eq_next.mp h
  rw [jump_mem, pullWord_mem hw, setP_mem, pull_mem hu]

/-- The one case split over the 151 instructions: each is a writer of memory, or is made of parts that leave it as it
was. -/
theorem exec_mem {i : Instr} (h : exec i s = .next t) (hi : i.writesMemory = false) : t.mem = s.mem := by
  cases i with
  | ldaImm | ldaZp | ldaZpx | ldaAbs | ldaAbsx | ldaAbsy | ldaIndx | ldaIndy
  | ldxImm | ldxZp | ldxZpy | ldxAbs | ldxAbsy | ldyImm | ldyZp | ldyZpx | ldyAbs | ldyAbsx
  | andImm | andZp | andZpx | andAbs | andAbsx | andAbsy | andIndx | andIndy
  | oraImm | oraZp | oraZpx | oraAbs | oraAbsx | oraAbsy | oraIndx | oraIndy
  | eorImm | eorZp | eorZpx | eorAbs | eorAbsx | eorAbsy | eorIndx | eorIndy | bitZp | bitAbs
  | cmpImm | cmpZp | cmpZpx | cmpAbs | cmpAbsx | cmpAbsy | cmpIndx | cmpIndy
  | cpxImm | cpxZp | cpxAbs | cpyImm | cpyZp | cpyAbs =>
    simp only [exec] at h
    exact withOperand_mem h fun _ _ => rfl
  | adcImm | adcZp | adcZpx | adcAbs | adcAbsx | adcAbsy | adcIndx | adcIndy =>
    simp only [exec] at h
    exact withOperand_mem h adcEffect_mem
  | sbcImm | sbcZp | sbcZpx | sbcAbs | sbcAbsx | sbcAbsy | sbcIndx | sbcIndy =>
    simp only [exec] at h
    exact withOperand_mem h sbcEffect_mem
  | tax | tay | txa | tya | tsx | txs | inx | iny | dex | dey | aslAcc | lsrAcc | rolAcc
  | clc | sec | cli | sei | cld | sed | clv | nop | jmpAbs => exact next_mem h rfl
  | rorAcc => exact next_mem (ifRor_eq_next.mp h).2 rfl
  | pla | plp => exact bindNext_mem h (fun _ _ => pull_mem) fun _ _ ht => next_mem ht rfl
  | rts => exact bindNext_mem h (fun _ _ => pullWord_mem) fun _ _ ht => next_mem ht rfl
  | jmpInd => exact bindNext_mem h (fun _ _ hp => (readPtr_spec hp).mem_eq) fun _ _ ht => next_mem ht rfl
  | rti => exact returnFrom_mem h
  | bpl | bmi | bvc | bvs | bcc | bcs | bne | beq => exact branchIf_mem h
  | _ => cases hi

end MemoryFrame

theorem byteAt_of_mem_eq {s t : State} (hcfg : t.cfg = s.cfg) (hmem : t.mem = s.mem) (b : Word) :
    t.byteAt b = s.byteAt b := by
  simp only [State.byteAt, State.cell, hcfg, hmem]

/-- Settles O45: the memory list is the one before, and so is the platform that names its cells. -/
theorem memoryChangesOnlyByWriters : Obligations.MemoryChangesOnlyByWriters := fun _ _ _ h hi =>
  byteAt_of_mem_eq (exec_kept h).cfg (exec_mem h hi)

end Sys2Proof.Machine
end

section
/-! Transfers between registers (R120 to R125). -/

namespace Sys2Proof.Machine

/-- An instruction of one byte without an operand whose last act is to set N and Z: PC passes that byte, and the next
boundary polls I as it stands (R230). -/
theorem implied_setNZ (s : State) (r : Byte) : implied (s.setNZ r) = .next { s with
    p := { s.p with n := r.getLsbD 7, z := r == 0#8 }, pc := s.pc + 1#16, iPoll := s.p.i } := by
  rw [State.setNZ, withNZ_eq]; rfl

/-- Settles O17: the first five set their register, then N and Z from the source, as `implied_setNZ` says of the state
with the register already set; TXS is the advance past its byte alone, with S set. -/
theorem transfersCopyTheirRegister : Obligations.TransfersCopyTheirRegister := fun s =>
  ⟨implied_setNZ (s.setX s.a) s.a, implied_setNZ (s.setY s.a) s.a, implied_setNZ (s.setA s.x) s.x,
    implied_setNZ (s.setA s.y) s.y, implied_setNZ (s.setX s.sp) s.sp, rfl⟩

end Sys2Proof.Machine
end

section
/-! Logic, in every form (R135 to R138). -/

namespace Sys2Proof.Machine

section LogicTables

variable {s : State} {n : Byte} {nn : Word}

theorem and_shape : ∀ io ∈ Forms.and n nn, exec io.1 s = withOperand io.2 andEffect s := by
  simp only [Forms.and, List.forall_mem_cons, List.not_mem_nil, false_implies, implies_true, and_true]
  and_intros <;> rfl

theorem ora_shape : ∀ io ∈ Forms.ora n nn, exec io.1 s = withOperand io.2 oraEffect s := by
  simp only [Forms.ora, List.forall_mem_cons, List.not_mem_nil, false_implies, implies_true, and_true]
  and_intros <;> rfl

theorem eor_shape : ∀ io ∈ Forms.eor n nn, exec io.1 s = withOperand io.2 eorEffect s := by
  simp only [Forms.eor, List.forall_mem_cons, List.not_mem_nil, false_implies, implies_true, and_true]
  and_intros <;> rfl

theorem bit_shape : ∀ io ∈ Forms.bit n nn, exec io.1 s = withOperand io.2 bitEffect s := by
  simp only [Forms.bit, List.forall_mem_cons, List.not_mem_nil, false_implies, implies_true, and_true]
  and_intros <;> rfl

end LogicTables

/-- The argument that AND, ORA and EOR share: a table whose effect puts `op` of A and the operand into A, and then sets
N and Z from that result. -/
theorem readForms_of_setA_setNZ {forms : Byte → Word → List (Instr × Operand)} {eff : Byte → State → State}
    (op : Byte → Byte → Byte) (hx : ∀ n nn, ∀ io ∈ forms n nn, ∀ s, exec io.1 s = withOperand io.2 eff s)
    (heff : ∀ m s, eff m s = (s.setA (op s.a m)).setNZ (op s.a m)) :
    ReadForms forms (fun _ _ => True) (fun s m => { s with
      a := op s.a m, p := { s.p with n := (op s.a m).getLsbD 7, z := op s.a m == 0#8 } }) :=
  readForms_of hx fun s m ev dr len _ => by rw [heff, State.setNZ, withNZ_eq]; rfl

/-- Settles O20: each of the three effects is `readForms_of_setA_setNZ`, with the operation of its rule on A and the
operand. -/
theorem logicCombinesAWithOperand : Obligations.LogicCombinesAWithOperand :=
  ⟨readForms_of_setA_setNZ (· &&& ·) (fun _ _ io hio _ => and_shape io hio) fun _ _ => rfl,
    readForms_of_setA_setNZ (· ||| ·) (fun _ _ io hio _ => ora_shape io hio) fun _ _ => rfl,
    readForms_of_setA_setNZ (· ^^^ ·) (fun _ _ io hio _ => eor_shape io hio) fun _ _ => rfl⟩

/-- Settles O21: both forms are `withOperand` of the effect of BIT, which writes nothing but the flags, and those as
`bitFlags` says. -/
theorem bitCopiesOperandBits : Obligations.BitCopiesOperandBits :=
  readForms_of (fun _ _ io hio _ => bit_shape io hio) fun _ _ _ _ _ _ => rfl

end Sys2Proof.Machine
end

section
/-! Arithmetic and compares, in every form (R145 to R155), and the branches after a compare (R156). -/

namespace Sys2Proof.Machine

section ArithmeticTables

variable {s : State} {n : Byte} {nn : Word}

theorem adc_shape : ∀ io ∈ Forms.adc n nn, exec io.1 s = withOperand io.2 adcEffect s := by
  simp only [Forms.adc, List.forall_mem_cons, List.not_mem_nil, false_implies, implies_true, and_true]
  and_intros <;> rfl

theorem sbc_shape : ∀ io ∈ Forms.sbc n nn, exec io.1 s = withOperand io.2 sbcEffect s := by
  simp only [Forms.sbc, List.forall_mem_cons, List.not_mem_nil, false_implies, implies_true, and_true]
  and_intros <;> rfl

theorem cmp_shape : ∀ io ∈ Forms.cmp n nn, exec io.1 s = withOperand io.2 cmpEffect s := by
  simp only [Forms.cmp, List.forall_mem_cons, List.not_mem_nil, false_implies, implies_true, and_true]
  and_intros <;> rfl

theorem cpx_shape : ∀ io ∈ Forms.cpx n nn, exec io.1 s = withOperand io.2 cpxEffect s := by
  simp only [Forms.cpx, List.forall_mem_cons, List.not_mem_nil, false_implies, implies_true, and_true]
  and_intros <;> rfl

theorem cpy_shape : ∀ io ∈ Forms.cpy n nn, exec io.1 s = withOperand io.2 cpyEffect s := by
  simp only [Forms.cpy, List.forall_mem_cons, List.not_mem_nil, false_implies, implies_true, and_true]
  and_intros <;> rfl

end ArithmeticTables

/-! ### Which rule ADC and SBC follow -/

section Rules

variable {s : State} {m : Byte}

theorem adcEffect_binary (hd : s.p.d = false) :
    adcEffect m s = (s.setA (addBin s.a m s.p.c).r).setP (sumFlags (addBin s.a m s.p.c) s.p) := by
  rw [adcEffect, hd]; rfl

theorem sbcEffect_binary (hd : s.p.d = false) :
    sbcEffect m s = (s.setA (subBin s.a m s.p.c).r).setP (sumFlags (subBin s.a m s.p.c) s.p) := by
  rw [sbcEffect, hd]; rfl

theorem adcEffect_nmos (hd : s.p.d = true) (hrule : s.cfg.decimal = .nmos) : adcEffect m s = adcNmos m s := by
  rw [adcEffect, hd, hrule]; rfl

theorem sbcEffect_nmos (hd : s.p.d = true) (hrule : s.cfg.decimal = .nmos) : sbcEffect m s = sbcNmos m s := by
  rw [sbcEffect, hd, hrule]; rfl

end Rules

/-! ### Binary sums and differences -/

theorem sumFlags_addBin (a m : Byte) (c : Bool) (p : Flags) : sumFlags (addBin a m c) p = { p with
    n := (a.toNat + m.toNat + c.toNat).testBit 7
    v := decide (a.toInt + m.toInt + (c.toNat : Int) < -128 ∨ 127 < a.toInt + m.toInt + (c.toNat : Int))
    z := decide ((a.toNat + m.toNat + c.toNat) % 256 = 0)
    c := decide (256 ≤ a.toNat + m.toNat + c.toNat) } := by
  rw [sumFlags, Flags.withNZ, addBin_v, addBin_cout, addBin_r, msb_ofNat8, ofNat8_beq_zero]

theorem sumFlags_subBin (a m : Byte) (c : Bool) (p : Flags) : sumFlags (subBin a m c) p = { p with
    n := (BitVec.ofInt 8 ((a.toNat : Int) - m.toNat - (1 - (c.toNat : Int)))).getLsbD 7
    v := decide (a.toInt - m.toInt - (1 - (c.toNat : Int)) < -128 ∨ 127 < a.toInt - m.toInt - (1 - (c.toNat : Int)))
    z := decide (((a.toNat : Int) - m.toNat - (1 - (c.toNat : Int))) % 256 = 0)
    c := decide (0 ≤ (a.toNat : Int) - m.toNat - (1 - (c.toNat : Int))) } := by
  rw [sumFlags, withNZ_eq, subBin_v, subBin_cout, subBin_r, ofInt8_beq_zero]

/-- Settles O22: with D = 0 every form takes the result and the flags of the binary sum, `sumFlags_addBin`. -/
theorem adcBinaryAddsWithCarry : Obligations.AdcBinaryAddsWithCarry :=
  readForms_of (fun _ _ io hio _ => adc_shape io hio) fun s m ev dr len hd => by
    rw [adcEffect_binary, sumFlags_addBin]
    · rfl
    · exact hd

/-- Settles O23: with D = 0 every form takes the result and the flags of the binary difference, `subBin_r` and
`sumFlags_subBin`. -/
theorem sbcBinarySubtractsWithBorrow : Obligations.SbcBinarySubtractsWithBorrow :=
  readForms_of (fun _ _ io hio _ => sbc_shape io hio) fun s m ev dr len hd => by
    rw [sbcEffect_binary, subBin_r, sumFlags_subBin]
    · rfl
    · exact hd

/-! ### The NMOS algorithm (R151, R152) -/

/-! The masks with which R151 and R152 take a byte apart give its digits. -/

theorem and_lowMask (k : Nat) : k &&& 0x0F = k % 16 := Nat.and_two_pow_sub_one_eq_mod k 4

theorem toNat_and_highMask (b : Byte) : b.toNat &&& 0xF0 = 16 * highDigit b := by
  revert b; decide

/-- R151's overflow, on the unbounded sum and on its byte. -/
theorem msb_overflow (a m : Byte) (t : Nat) :
    ((a ^^^ BitVec.ofNat 8 t) &&& (m ^^^ BitVec.ofNat 8 t)).msb = ((a.toNat ^^^ t) &&& (m.toNat ^^^ t)).testBit 7 := by
  rw [BitVec.msb_eq_getLsbD_last, BitVec.getLsbD_and, BitVec.getLsbD_xor, BitVec.getLsbD_xor, BitVec.getLsbD_ofNat]
  simp [Nat.testBit_and, Nat.testBit_xor, BitVec.testBit_toNat]

theorem adcNmos_eq (m : Byte) (s : State) : adcNmos m s = { s with
    a := BitVec.ofNat 8 (nmosAdjusted s.a m s.p.c)
    p := { s.p with
      n := (nmosSum s.a m s.p.c).testBit 7
      v := ((s.a.toNat ^^^ nmosSum s.a m s.p.c) &&& (m.toNat ^^^ nmosSum s.a m s.p.c)).testBit 7
      c := decide (0x100 ≤ nmosAdjusted s.a m s.p.c)
      z := decide ((s.a.toNat + m.toNat + s.p.c.toNat) % 256 = 0) } } := by
  rw [adcNmos, msb_ofNat8, msb_overflow, addBin_r, ofNat8_beq_zero]; rfl

/-- Settles O26: with its masks read as digits, the rule's `t` is `nmosSum` and its adjusted `t` is `nmosAdjusted`, of
which `adcNmos_eq` says the flags. -/
theorem decimalNmosAdcAsTheRuleComputes : Obligations.DecimalNmosAdcAsTheRuleComputes := by
  unfold Obligations.DecimalNmosAdcAsTheRuleComputes
  simp only [and_lowMask, toNat_and_highMask]
  refine readForms_of (fun _ _ io hio _ => adc_shape io hio) fun s m ev dr len ⟨hd, hrule⟩ => ?_
  rw [adcEffect_nmos, adcNmos_eq]
  · rfl
  · exact hd
  · exact hrule

/-- Settles O27: with its masks read as digits, the rule's result is `nmosDifference`; the flags are those of the binary
difference. -/
theorem decimalNmosSbcAsTheRuleComputes : Obligations.DecimalNmosSbcAsTheRuleComputes := by
  unfold Obligations.DecimalNmosSbcAsTheRuleComputes
  simp only [toNat_and_highMask, Nat.cast_mul, Nat.cast_ofNat]
  refine readForms_of (fun _ _ io hio _ => sbc_shape io hio) fun s m ev dr len ⟨hd, hrule⟩ => ?_
  rw [sbcEffect_nmos, sbcNmos, sumFlags_subBin]
  · rfl
  · exact hd
  · exact hrule

/-! ### Valid BCD (R150) -/

section ValidBcd

variable {a m : Byte} {c : Bool}

theorem validBcd_iff : validBcd a = true ↔ highDigit a ≤ 9 ∧ lowDigit a ≤ 9 := by simp [validBcd]

theorem toNat_eq_digits (b : Byte) : b.toNat = 16 * highDigit b + lowDigit b := (Nat.div_add_mod b.toNat 16).symm

/-- The adjusted sum of two valid BCD bytes is the decimal sum, its hundred weighing 256 and its ten 16. -/
theorem nmosAdjusted_of_validBcd (ha : validBcd a = true) (hm : validBcd m = true) {t : Nat}
    (ht : t = dec a + dec m + c.toNat) :
    nmosAdjusted a m c = 256 * (t / 100) + (t % 100 / 10 * 16 + t % 10) := by
  obtain ⟨hah, hal⟩ := validBcd_iff.mp ha
  obtain ⟨hmh, hml⟩ := validBcd_iff.mp hm
  have hc : c.toNat ≤ 1 := c.toNat_le
  rw [dec, dec] at ht
  simp only [nmosAdjusted, nmosSum, nmosLowSum]
  split <;> split <;> omega

/-- A number read off its decimal digits: `h` the tens and `l` the ones, up to hundreds. -/
theorem bcdDigits_eq {d b h l : Int} (hd : d = 100 * b + 10 * h + l) (hh : 0 ≤ h ∧ h ≤ 9) (hl : 0 ≤ l ∧ l ≤ 9) :
    d % 100 / 10 * 16 + d % 10 = 16 * h + l := by
  omega

/-- The result of R152 on two valid BCD bytes is the decimal difference, its ten weighing 16, up to a byte's 256: a
digit that goes below 0 borrows ten, of which the algorithm's 6 makes a borrow of 16. -/
theorem nmosDifference_of_validBcd (ha : validBcd a = true) (hm : validBcd m = true) {d : Int}
    (hd : d = (dec a : Int) - dec m - (1 - (c.toNat : Int))) :
    nmosDifference a m c % 256 = d % 100 / 10 * 16 + d % 10 := by
  obtain ⟨hah, hal⟩ := validBcd_iff.mp ha
  obtain ⟨hmh, hml⟩ := validBcd_iff.mp hm
  have hc : c.toNat ≤ 1 := c.toNat_le
  obtain ⟨high, hhigh⟩ : ∃ high : Int, high = highDigit a - highDigit m := ⟨_, rfl⟩
  obtain ⟨low, hlow⟩ : ∃ low : Int, low = lowDigit a - lowDigit m + c.toNat - 1 := ⟨_, rfl⟩
  rw [dec, dec] at hd
  simp only [nmosDifference]
  split
  · split
    · rw [bcdDigits_eq (b := -1) (h := high + 9) (l := low + 10)] <;> omega
    · rw [bcdDigits_eq (b := 0) (h := high - 1) (l := low + 10)] <;> omega
  · split
    · rw [bcdDigits_eq (b := -1) (h := high + 10) (l := low)] <;> omega
    · rw [bcdDigits_eq (b := 0) (h := high) (l := low)] <;> omega

/-- Valid BCD bytes are ordered as the numbers they write. -/
theorem noBorrow_iff_dec (ha : validBcd a = true) (hm : validBcd m = true) :
    0 ≤ (a.toNat : Int) - m.toNat - (1 - (c.toNat : Int)) ↔ 0 ≤ (dec a : Int) - dec m - (1 - (c.toNat : Int)) := by
  obtain ⟨hah, hal⟩ := validBcd_iff.mp ha
  obtain ⟨hmh, hml⟩ := validBcd_iff.mp hm
  have hc : c.toNat ≤ 1 := c.toNat_le
  simp only [toNat_eq_digits, dec]
  omega

theorem ofNat_eq_bcd {t d : Nat} (h : t % 256 = d % 100 / 10 * 16 + d % 10) : BitVec.ofNat 8 t = bcd (d % 100) := by
  apply BitVec.eq_of_toNat_eq
  rw [bcd, BitVec.toNat_ofNat, BitVec.toNat_ofNat]
  omega

theorem ofInt_eq_bcd {t d : Int} (h : t % 256 = d % 100 / 10 * 16 + d % 10) :
    BitVec.ofInt 8 t = bcd (d % 100).toNat := by
  apply BitVec.eq_of_toNat_eq
  rw [bcd, BitVec.toNat_ofInt, BitVec.toNat_ofNat]
  omega

end ValidBcd

/-- Settles O28: on valid BCD both algorithms give the decimal digits, and their carries compare the same numbers. -/
theorem decimalNmosAgreesWithStrict : Obligations.DecimalNmosAgreesWithStrict := by
  intro s m _ ha hm
  have hsum := nmosAdjusted_of_validBcd (c := s.p.c) ha hm rfl
  refine ⟨ofNat_eq_bcd (by omega), decide_eq_decide.mpr (by omega),
    ofInt_eq_bcd (nmosDifference_of_validBcd ha hm rfl), ?_⟩
  exact (subBin_cout s.a m s.p.c).trans (decide_eq_decide.mpr (noBorrow_iff_dec ha hm))

/-! ### Compares (R153 to R155) -/

theorem subBin_noBorrow_r (r m : Byte) : (subBin r m true).r = r - m := by
  rw [subBin_r, Bool.toNat_true]
  apply BitVec.eq_of_toNat_eq
  rw [BitVec.toNat_ofInt, BitVec.toNat_sub]
  omega

theorem subBin_noBorrow_cout (r m : Byte) : (subBin r m true).cout = decide (m.toNat ≤ r.toNat) := by
  rw [subBin_cout, Bool.toNat_true, decide_eq_decide]
  omega

theorem compareFlags_eq (r m : Byte) (p : Flags) : compareFlags r m p = { p with
    n := (r - m).getLsbD 7, z := decide (r = m), c := decide (m.toNat ≤ r.toNat) } := by
  have hzero : (r - m == 0#8) = decide (r = m) := by
    rw [beq_eq_decide]
    exact decide_eq_decide.mpr sub_eq_zero
  rw [compareFlags, withNZ_eq, subBin_noBorrow_r, subBin_noBorrow_cout, hzero]

/-- Settles O29: each form writes the flags of its register's compare, `compareFlags_eq`. -/
theorem comparesAreUnsigned : Obligations.ComparesAreUnsigned := by
  refine ⟨readForms_of (fun _ _ io hio _ => cmp_shape io hio) fun s m ev dr len _ => ?_,
    readForms_of (fun _ _ io hio _ => cpx_shape io hio) fun s m ev dr len _ => ?_,
    readForms_of (fun _ _ io hio _ => cpy_shape io hio) fun s m ev dr len _ => ?_⟩
  · rw [cmpEffect, compareFlags_eq]; rfl
  · rw [cpxEffect, compareFlags_eq]; rfl
  · rw [cpyEffect, compareFlags_eq]; rfl

/-! ### Branches after a compare (R156) -/

/-- A branch whose flag says whether `c` holds is taken where `c` holds. -/
theorem branchIf_of_iff {cond : Bool} {c : Prop} [Decidable c] (h : cond = true ↔ c) (d : Byte) (u : State) :
    branchIf cond d u = .next { u with pc := if c then branchTarget u.pc d else u.pc + 2#16, iPoll := u.p.i } := by
  simp only [branchIf, h]
  split <;> rfl

theorem branchIf_p {cond : Bool} {d : Byte} {t u : State} (h : branchIf cond d t = .next u) : u.p = t.p := by
  rw [branchIf_eq] at h
  rw [← Host.Outcome.next.inj h]

/-- After CMP #n, C says whether A is at least n, and Z whether A is n (R153). -/
theorem exec_cmpImm_flags {n : Byte} {s t : State} (h : exec (.cmpImm n) s = .next t) :
    (t.p.c = true ↔ n.toNat ≤ s.a.toNat) ∧ (t.p.z = true ↔ s.a = n) := by
  have hp : t.p = compareFlags s.a n s.p := by rw [← Host.Outcome.next.inj h]; rfl
  simp [hp, compareFlags_eq]

/-- Settles O30: each condition of the table is what the branch's flag says, and the first branch of a pair leaves the
flags to the second. -/
theorem branchesAfterCompareTestUnsignedOrder : Obligations.BranchesAfterCompareTestUnsignedOrder := by
  intro s t n d d' h
  obtain ⟨hc, hz⟩ := exec_cmpImm_flags h
  have hnc : (!t.p.c) = true ↔ s.a.toNat < n.toNat := by rw [Bool.not_eq_true', ← Bool.not_eq_true, hc, not_le]
  have hnz : (!t.p.z) = true ↔ s.a ≠ n := by rw [Bool.not_eq_true', ← Bool.not_eq_true, hz]
  refine ⟨branchIf_of_iff hnc d t, branchIf_of_iff hz d t, branchIf_of_iff hc d t, branchIf_of_iff hnz d t,
    fun u hu hge => ?_⟩
  have hp : u.p = t.p := branchIf_p hu
  rw [← hp] at hz hnz
  have heq : s.a.toNat = n.toNat ↔ s.a = n := BitVec.toNat_inj
  have hgt : s.a ≠ n ↔ n.toNat < s.a.toNat := by rw [ne_eq, ← heq]; omega
  have hle : s.a = n ↔ s.a.toNat ≤ n.toNat := by rw [← heq]; omega
  exact ⟨branchIf_of_iff (hnz.trans hgt) d' u, branchIf_of_iff (hz.trans hle) d' u⟩

end Sys2Proof.Machine
end

section
/-! Read-modify-write instructions, in every form (R160 to R173), and the increments and decrements of X and Y. -/

namespace Sys2Proof.Machine

/-! ### One more and one less -/

theorem add_one_eq_ofNat (m : Byte) : m + 1#8 = BitVec.ofNat 8 (m.toNat + 1) := rfl

theorem sub_one_eq_ofNat (m : Byte) : m - 1#8 = BitVec.ofNat 8 (m.toNat + 255) := by
  rw [Nat.add_comm]; rfl

theorem add_one_beq_zero (r : Byte) : (r + 1#8 == 0#8) = decide (r = 0xFF#8) := by
  rw [beq_eq_decide]
  exact decide_eq_decide.mpr add_eq_zero_iff_eq_neg

theorem sub_one_beq_zero (r : Byte) : (r - 1#8 == 0#8) = decide (r = 1#8) := by
  rw [beq_eq_decide]
  exact decide_eq_decide.mpr sub_eq_zero

/-- Settles O32: each sets its register, then N and Z from it, as `implied_setNZ` says of the state with the register
already set; one more is 0 only of FF, and one less only of 1. -/
theorem incDecRegistersByOne : Obligations.IncDecRegistersByOne := by
  unfold Obligations.IncDecRegistersByOne
  simp only [← add_one_beq_zero, ← sub_one_beq_zero]
  exact fun s =>
    ⟨implied_setNZ (s.setX (s.x + 1#8)) (s.x + 1#8), implied_setNZ (s.setY (s.y + 1#8)) (s.y + 1#8),
      implied_setNZ (s.setX (s.x - 1#8)) (s.x - 1#8), implied_setNZ (s.setY (s.y - 1#8)) (s.y - 1#8)⟩

/-! ### The shifted byte -/

section ShiftedByte

variable (m : Byte) (c : Bool)

theorem shiftLeft_eq_ofNat : m <<< 1 = BitVec.ofNat 8 (m.toNat * 2) :=
  congrArg (BitVec.ofNat 8) (Nat.shiftLeft_eq _ 1)

theorem toNat_shiftRight_one : (m >>> 1).toNat = m.toNat / 2 := by
  rw [BitVec.toNat_ushiftRight, Nat.shiftRight_eq_div_pow, Nat.pow_one]

theorem shiftRight_eq_ofNat : m >>> 1 = BitVec.ofNat 8 (m.toNat / 2) := by
  rw [← toNat_shiftRight_one, BitVec.ofNat_toNat, BitVec.setWidth_eq]

variable {m} in
/-- A flag put into a bit that is clear is added at the weight of that bit. -/
theorem or_flagBit_eq_ofNat {k : Nat} (hk : k < 8) (h : m.getLsbD k = false) :
    m ||| flagBit c (BitVec.twoPow 8 k) = BitVec.ofNat 8 (m.toNat + c.toNat * 2 ^ k) := by
  have hclear : m &&& BitVec.twoPow 8 k = 0#8 := by simp [BitVec.and_twoPow, h]
  cases c with
  | false => simp [flagBit]
  | true =>
    rw [flagBit, if_pos rfl, ← BitVec.add_eq_or_of_and_eq_zero m _ hclear, BitVec.add_def,
      BitVec.toNat_twoPow_of_lt hk, Bool.toNat_true, Nat.one_mul]

theorem rotateLeft_eq_ofNat : (m <<< 1) ||| flagBit c 0x01#8 = BitVec.ofNat 8 (m.toNat * 2 % 256 + c.toNat) := by
  have hclear : (m <<< 1).getLsbD 0 = false := by simp
  refine (or_flagBit_eq_ofNat c (by decide) hclear).trans ?_
  rw [shiftLeft_eq_ofNat, BitVec.toNat_ofNat, Nat.pow_zero, Nat.mul_one]

theorem rotateRight_eq_ofNat : (m >>> 1) ||| flagBit c 0x80#8 = BitVec.ofNat 8 (m.toNat / 2 + c.toNat * 128) := by
  have hclear : (m >>> 1).getLsbD 7 = false := by simp
  refine (or_flagBit_eq_ofNat c (by decide) hclear).trans ?_
  simp only [toNat_shiftRight_one, Nat.reducePow]

end ShiftedByte

/-! ### Results with their flags -/

section Results

variable (m : Byte) (p : Flags)

theorem incOp_eq : incOp m p = (BitVec.ofNat 8 (m.toNat + 1), { p with
    n := (BitVec.ofNat 8 (m.toNat + 1)).getLsbD 7, z := decide ((m.toNat + 1) % 256 = 0) }) := by
  rw [incOp, withNZ_eq, add_one_eq_ofNat, ofNat8_beq_zero]

theorem decOp_eq : decOp m p = (BitVec.ofNat 8 (m.toNat + 255), { p with
    n := (BitVec.ofNat 8 (m.toNat + 255)).getLsbD 7, z := decide ((m.toNat + 255) % 256 = 0) }) := by
  rw [decOp, withNZ_eq, sub_one_eq_ofNat, ofNat8_beq_zero]

theorem aslOp_eq : aslOp m p = (BitVec.ofNat 8 (m.toNat * 2), { p with
    n := (BitVec.ofNat 8 (m.toNat * 2)).getLsbD 7, z := BitVec.ofNat 8 (m.toNat * 2) == 0#8, c := m.getLsbD 7 }) := by
  rw [aslOp, withNZ_eq, shiftLeft_eq_ofNat]

theorem lsrOp_eq : lsrOp m p = (BitVec.ofNat 8 (m.toNat / 2), { p with
    n := false, z := BitVec.ofNat 8 (m.toNat / 2) == 0#8, c := m.getLsbD 0 }) := by
  rw [lsrOp, shiftRight_eq_ofNat]

theorem rolOp_eq : rolOp m p = (BitVec.ofNat 8 (m.toNat * 2 % 256 + p.c.toNat), { p with
    n := (BitVec.ofNat 8 (m.toNat * 2 % 256 + p.c.toNat)).getLsbD 7
    z := BitVec.ofNat 8 (m.toNat * 2 % 256 + p.c.toNat) == 0#8
    c := m.getLsbD 7 }) := by
  rw [rolOp, withNZ_eq, rotateLeft_eq_ofNat]

theorem rorOp_eq : rorOp m p = (BitVec.ofNat 8 (m.toNat / 2 + p.c.toNat * 128), { p with
    n := (BitVec.ofNat 8 (m.toNat / 2 + p.c.toNat * 128)).getLsbD 7
    z := BitVec.ofNat 8 (m.toNat / 2 + p.c.toNat * 128) == 0#8
    c := m.getLsbD 0 }) := by
  rw [rorOp, withNZ_eq, rotateRight_eq_ofNat]

end Results

/-! ### The tables -/

/-- Every read-modify-write table has these four forms of memory operand (R88): it behaves alike where each of them is
`modifyAt` of one operation, which keeps I. -/
theorem modifyForms_of_four {forms : Byte → Word → List (Instr × AddrForm)} {guard : State → Prop}
    {op op' : Byte → Flags → Byte × Flags} {zp zpx : Byte → Instr} {abs absx : Word → Instr}
    (hforms : ∀ n nn, forms n nn = [(zp n, .zp n), (zpx n, .zpx n), (abs nn, .abs nn), (absx nn, .absx nn)])
    (hexec : ∀ n nn s, guard s → exec (zp n) s = modifyAt (.zp n) op s ∧ exec (zpx n) s = modifyAt (.zpx n) op s ∧
      exec (abs nn) s = modifyAt (.abs nn) op s ∧ exec (absx nn) s = modifyAt (.absx nn) op s)
    (hop : ∀ m p, op m p = op' m p) (hi : ∀ m p, (op m p).2.i = p.i) : ModifyForms forms guard op' := by
  refine modifyForms_of (fun n nn io hio s hg => ?_) fun m p => ⟨hop m p, hi m p⟩
  obtain ⟨hzp, hzpx, habs, habsx⟩ := hexec n nn s hg
  simp only [hforms, List.mem_cons, List.not_mem_nil, or_false] at hio
  rcases hio with rfl | rfl | rfl | rfl
  · exact hzp
  · exact hzpx
  · exact habs
  · exact habsx

/-- Settles O31: each form is `modifyAt` of its operation, whose result and flags `incOp_eq` and `decOp_eq` say. -/
theorem incDecMemoryByOne : Obligations.IncDecMemoryByOne :=
  ⟨modifyForms_of_four (fun _ _ => rfl) (fun _ _ _ _ => ⟨rfl, rfl, rfl, rfl⟩) incOp_eq fun _ _ => rfl,
    modifyForms_of_four (fun _ _ => rfl) (fun _ _ _ _ => ⟨rfl, rfl, rfl, rfl⟩) decOp_eq fun _ _ => rfl⟩

/-- Settles O34: each form is `modifyAt` of its operation, ROR on a chip that has it; what the operation gives, over the
natural numbers, is said by its equation. -/
theorem shiftsOfMemoryMoveOnePlace : Obligations.ShiftsOfMemoryMoveOnePlace :=
  ⟨modifyForms_of_four (fun _ _ => rfl) (fun _ _ _ _ => ⟨rfl, rfl, rfl, rfl⟩) aslOp_eq fun _ _ => rfl,
    modifyForms_of_four (fun _ _ => rfl) (fun _ _ _ _ => ⟨rfl, rfl, rfl, rfl⟩) lsrOp_eq fun _ _ => rfl,
    modifyForms_of_four (fun _ _ => rfl) (fun _ _ _ _ => ⟨rfl, rfl, rfl, rfl⟩) rolOp_eq fun _ _ => rfl,
    modifyForms_of_four (fun _ _ => rfl) (fun _ _ _ h => ⟨ifRor_with h, ifRor_with h, ifRor_with h, ifRor_with h⟩)
      rorOp_eq fun _ _ => rfl⟩

end Sys2Proof.Machine
end

section
/-! JMP in both its forms (R189, R190), and RTS right after JSR (R191 to R193). -/

namespace Sys2Proof.Machine

/-! ### Jumps -/

/-- A jump through a pointer keeps what reading the pointer left: only accesses were made on the way (R190). -/
theorem execJmpInd_of_readPtr {s u : State} {nn target : Word} (h : readPtr nn s = .next (target, u)) :
    execJmpInd nn s =
      .next { s with pc := target, iPoll := s.p.i, events := u.events, draws := u.draws } := by
  rw [execJmpInd, h, bindNext_next, (readPtr_spec h).same]
  rfl

theorem execJmpInd_fault {s : State} {nn : Word} {e : Fault} (h : readPtr nn s = .fault e) :
    execJmpInd nn s = .fault e := by
  rw [execJmpInd, h, bindNext_fault]

/-- Settles O37: a jump through a pointer is `readPtr` and then the jump, and `readPtr_inPage` reads a pointer in
memory. -/
theorem jumpsGoToTheirTarget : Obligations.JumpsGoToTheirTarget := fun _ _ =>
  ⟨rfl, fun _ _ => execJmpInd_of_readPtr, fun _ => execJmpInd_fault, readPtr_inPage⟩

/-! ### What a pull finds after a push -/

section PushedAndPulled

variable {s t u : State} {w : Word}

/-- Two pushes to two cells of RAM leave the word in them, the high byte at the higher S (R27, R55). -/
theorem pushWord_stored (h : pushWord w s = .next u) (hhigh : s.IsRam (stackAddr s.sp))
    (hlow : s.IsRam (stackAddr (s.sp - 1#8))) (hcells : s.cell (stackAddr s.sp) ≠ s.cell (stackAddr (s.sp - 1#8))) :
    u.byteAt (stackAddr s.sp) = highByte w ∧ u.byteAt (stackAddr (s.sp - 1#8)) = lowByte w := by
  rw [pushWord_ram hhigh hlow] at h
  obtain rfl := Host.Outcome.next.inj h
  simp only [setSp_byteAt]
  exact ⟨(storeCell_byteAt_other (s := s.storeCell _ _) hcells _).trans (storeCell_byteAt_same rfl _),
    storeCell_byteAt_same rfl _⟩

/-- A word pushed to two distinct cells of RAM comes back with S as it was, in any state that has kept memory, platform
and S since the push. -/
theorem pullWord_pushWord (h : pushWord w s = .next u) (hhigh : s.IsRam (stackAddr s.sp))
    (hlow : s.IsRam (stackAddr (s.sp - 1#8))) (hcells : s.cell (stackAddr s.sp) ≠ s.cell (stackAddr (s.sp - 1#8)))
    (hmem : t.mem = u.mem) (hcfg : t.cfg = u.cfg) (hsp : t.sp = u.sp) :
    pullWord t = .next (w, t.setSp s.sp) := by
  obtain ⟨hstep, husp⟩ := pushWord_spec h
  obtain ⟨hbyteHigh, hbyteLow⟩ := pushWord_stored h hhigh hlow hcells
  have hkind : ∀ a, t.kindAt a = s.kindAt a := fun a => by
    simp only [State.kindAt, State.cell, hcfg, hstep.cfg_eq]
  have hsp1 : t.sp + 1#8 = s.sp - 1#8 := by rw [hsp, husp]; bv_omega
  have hsp2 : t.sp + 2#8 = s.sp := by rw [hsp, husp]; bv_omega
  have hpull := pullWord_memory (s := t) (.inl (by rw [hsp1, hkind, hlow])) (.inl (by rw [hsp2, hkind, hhigh]))
  rwa [hsp1, hsp2, byteAt_of_mem_eq hcfg hmem, byteAt_of_mem_eq hcfg hmem, hbyteHigh, hbyteLow, word_high_low] at hpull

end PushedAndPulled

/-- Settles O53: RTS pulls the word that JSR pushed, PC + 2, and goes on one past it; the two jumps and the two
moves of S touch nothing else. -/
theorem rtsUndoesJsr : Obligations.RtsUndoesJsr := by
  intro s t nn hhigh hlow hcells h
  obtain ⟨-, u, hpush, rfl⟩ := execJsr_eq_next.mp (show execJsr nn s = .next t from h)
  have hpull : pullWord (u.jump nn) = .next (s.pc + 2#16, (u.jump nn).setSp s.sp) :=
    pullWord_pushWord hpush hhigh hlow hcells rfl rfl rfl
  have hrts : exec .rts (u.jump nn) = .next (((u.jump nn).setSp s.sp).jump (s.pc + 2#16 + 1#16)) := by
    rw [exec, execRts, hpull, bindNext_next]
  obtain ⟨hstep, -⟩ := pushWord_spec hpush
  exact ⟨_, hrts, BitVec.add_assoc _ _ _, rfl, hstep.a_eq, hstep.x_eq, hstep.y_eq, hstep.p_eq, rfl⟩

end Sys2Proof.Machine
end

section
/-! The flag instructions (R200 to R207), and the return from an exception entry (R208, R209, R226 to R228). -/

namespace Sys2Proof.Machine

/-- An instruction of one byte without an operand whose one act is to write the flags: the next boundary polls the I
it wrote (R230). -/
theorem implied_setP (s : State) (p : Flags) :
    implied (s.setP p) = .next { s with p := p, pc := s.pc + 1#16, iPoll := p.i } := rfl

/-- Settles O40: the five that keep I and NOP, which writes back the flags it found, are `implied_setP`; CLI and SEI end
with the lagged advance, which polls the I of before (R230). -/
theorem flagInstructionsWriteOneFlag : Obligations.FlagInstructionsWriteOneFlag := fun s =>
  ⟨implied_setP s { s.p with c := false }, implied_setP s { s.p with c := true }, implied_setP s { s.p with d := false },
    implied_setP s { s.p with d := true }, implied_setP s { s.p with v := false }, rfl, rfl, implied_setP s s.p⟩

/-! ### Returning from an exception entry -/

section EntryAndReturn

variable {s t : State} {ret vector : Word} {b : Bool}

/-- Beyond its three pushes an entry changes neither S nor what memory holds, whatever answers at the vector. -/
theorem enter_pushes (h : enter ret b vector s = .next t) :
    ∃ u w, pushWord ret s = .next u ∧ push (pByte s.p b) u = .next w ∧ t.sp = w.sp ∧ ∀ a, t.byteAt a = w.byteAt a := by
  obtain ⟨u, w, target, x, hu, hw, hx, rfl⟩ := enter_eq_next.mp h
  obtain ⟨hstep, -⟩ := pushWord_spec hu
  have hread := read16_spec hx
  exact ⟨u, w, hu, hstep.p_eq ▸ hw, hread.sp_eq, hread.byteAt_eq⟩

theorem enter_sp (h : enter ret b vector s = .next t) : t.sp = s.sp - 3#8 := by
  obtain ⟨u, w, hu, hw, hsp, -⟩ := enter_pushes h
  obtain ⟨-, husp⟩ := pushWord_spec hu
  obtain ⟨-, hwsp, -⟩ := push_spec hw
  rw [hsp, hwsp, husp]; bv_omega

/-- An entry leaves in its three cells the return address and, below it, the flags of before, I included (R226). -/
theorem enter_stored (h : enter ret b vector s = .next t) (hram : s.StackRam) (hcells : s.StackDistinct) :
    t.byteAt (stackAddr s.sp) = highByte ret ∧ t.byteAt (stackAddr (s.sp - 1#8)) = lowByte ret ∧
      t.byteAt (stackAddr (s.sp - 2#8)) = pByte s.p b := by
  obtain ⟨hramHigh, hramLow, hramP⟩ := hram
  obtain ⟨hhighLow, hhighP, hlowP⟩ := hcells
  obtain ⟨u, w, hu, hw, -, hbyte⟩ := enter_pushes h
  obtain ⟨hstep, husp⟩ := pushWord_spec hu
  obtain ⟨hhigh, hlow⟩ := pushWord_stored hu hramHigh hramLow hhighLow
  obtain ⟨-, -, hp⟩ := push_spec hw
  rw [husp] at hp
  have hkept : ∀ a, s.cell a ≠ s.cell (stackAddr (s.sp - 2#8)) → t.byteAt a = u.byteAt a := fun a ha =>
    (hbyte a).trans (hp.elsewhere a (by rwa [hstep.cell_eq, hstep.cell_eq]))
  exact ⟨(hkept _ hhighP).trans hhigh, (hkept _ hlowP).trans hlow,
    (hbyte _).trans (hp.inRam ((hstep.kindAt_eq _).trans hramP))⟩

/-- What an entry pushed, the return pulls: the flags and S of before come back, and PC is the return address. -/
theorem returnFrom_enter (h : enter ret b vector s = .next t) (hram : s.StackRam) (hcells : s.StackDistinct) :
    returnFrom t = .next (((t.setP s.p).setSp s.sp).jump ret) := by
  obtain ⟨hhigh, hlow, hp⟩ := enter_stored h hram hcells
  obtain ⟨hramHigh, hramLow, hramP⟩ := hram
  have hsp1 : t.sp + 1#8 = s.sp - 2#8 := by rw [enter_sp h]; bv_omega
  have hsp2 : t.sp + 2#8 = s.sp - 1#8 := by rw [enter_sp h]; bv_omega
  have hsp3 : t.sp + 3#8 = s.sp := by rw [enter_sp h]; bv_omega
  have hmemory : ∀ a, s.IsRam a → t.IsMemory a := fun a ha => .inl ((kindAt_of_cfg_eq (enter_kept h).cfg a).trans ha)
  have hreturn := returnFrom_memory (s := t) (hsp1 ▸ hmemory _ hramP) (hsp2 ▸ hmemory _ hramLow)
    (hsp3 ▸ hmemory _ hramHigh)
  rwa [hsp1, hsp2, hsp3, hhigh, hlow, hp, flagsOf_pByte, word_high_low] at hreturn

/-- RTI right after an entry resumes at the pushed address; A, X and Y the entry itself left alone. -/
theorem rti_resumes_of_enter (h : enter ret b vector s = .next t) (hram : s.StackRam) (hcells : s.StackDistinct) :
    ∃ u, exec .rti t = .next u ∧ u.pc = ret ∧ u.sp = s.sp ∧ u.a = s.a ∧ u.x = s.x ∧ u.y = s.y ∧ u.p = s.p ∧
      u.iPoll = s.p.i ∧ u.mem = t.mem := by
  have k : ChangesOnly .brk s t := enter_changesOnly h rfl rfl
  exact ⟨_, returnFrom_enter h hram hcells, rfl, rfl, k.a rfl, k.x rfl, k.y rfl, rfl, rfl, rfl⟩

end EntryAndReturn

theorem step_of_irq {s : State} (h : nextEvent s.boundary s.sampled = .irq) : step s = irqEntry s.sampled := by
  have h' : nextEvent s.boundary (sampleLines s) = .irq := h
  simp only [step, h']; rfl

theorem step_of_nmi {s : State} (h : nextEvent s.boundary s.sampled = .nmi) : step s = nmiEntry s.sampled := by
  have h' : nextEvent s.boundary (sampleLines s) = .nmi := h
  simp only [step, h']; rfl

/-- Settles O54: BRK is an entry that pushes PC + 2; IRQ and NMI are entries that push PC, from the sampled state, which
has the registers, flags and stack cells of `s`. -/
theorem rtiUndoesExceptionEntry : Obligations.RtiUndoesExceptionEntry := by
  intro s t hram hcells
  refine ⟨fun h => rti_resumes_of_enter h hram hcells, fun hevent h => ?_⟩
  rcases hevent with hirq | hnmi
  · rw [step_of_irq hirq] at h
    exact rti_resumes_of_enter (s := s.sampled) h hram hcells
  · rw [step_of_nmi hnmi] at h
    exact rti_resumes_of_enter (s := { s.sampled with nmiPending := false }) h hram hcells

end Sys2Proof.Machine
end

section
/-! What the boundary chooses (R222 to R225), the interrupt entries it leads to (R226), and an NMI line that is held
(R219, R221). -/

namespace Sys2Proof.Machine

/-! ### The choice of the step -/

section Choice

variable {b : Boundary} {s : State}

theorem nextEvent_eq_reset (h : b.res = true) : nextEvent b s = .reset := if_pos h

theorem nextEvent_eq_nmi_iff :
    nextEvent b s = .nmi ↔ b.res = false ∧ b.take = true ∧ s.nmiPending = true := by
  rw [nextEvent]
  split_ifs <;> simp_all

theorem nextEvent_eq_irq (hres : b.res = false) (htake : b.take = true) (hnmi : s.nmiPending = false)
    (hirq : b.irq = true) (hpoll : s.iPoll = false) : nextEvent b s = .irq := by
  simp [nextEvent, hres, htake, hnmi, hirq, hpoll]

/-- A schedule that waits keeps every interrupt out (R225). -/
theorem nextEvent_of_waiting (hres : b.res = false) (htake : b.take = false) : nextEvent b s = .instruction := by
  simp [nextEvent, hres, htake]

/-- With no NMI pending, a released line or `i_poll` keeps the IRQ out (R222). -/
theorem nextEvent_of_noneTakable (hres : b.res = false) (hnmi : s.nmiPending = false)
    (hirq : b.irq = false ∨ s.iPoll = true) : nextEvent b s = .instruction := by
  rcases hirq with hirq | hpoll
  · simp [nextEvent, hres, hnmi, hirq]
  · simp [nextEvent, hres, hnmi, hpoll]

end Choice

/-- An NMI is pending at a boundary if it was before, or if its edge arrives there (R221). -/
theorem sampled_nmiPending_iff {s : State} :
    s.sampled.nmiPending = true ↔ s.nmiPending = true ∨ (s.boundary.nmi = true ∧ s.nmiPrev = false) := by
  simp [State.sampled]

/-! ### Interrupt entries -/

/-- Settles O47: the choice is an NMI, and its entry is `enter_ram` with the pending edge cleared. -/
theorem nmiEntryWhateverTheMask : Obligations.NmiEntryWhateverTheMask := by
  intro s hres htake hpending hram hlow hhigh
  have hevent : nextEvent s.boundary s.sampled = .nmi :=
    nextEvent_eq_nmi_iff.mpr ⟨hres, htake, sampled_nmiPending_iff.mpr hpending⟩
  rw [step_of_nmi hevent]
  exact enter_ram (s := { s.sampled with nmiPending := false }) s.pc false hram hlow hhigh

/-- Settles O48: the choice is an IRQ, and its entry is `enter_ram` from the sampled state. -/
theorem irqEntryWhenUnmasked : Obligations.IrqEntryWhenUnmasked := by
  intro s hres htake hnmi hirq hpoll hram hlow hhigh
  rw [step_of_irq (nextEvent_eq_irq hres htake hnmi hirq hpoll)]
  exact enter_ram (s := s.sampled) s.pc false hram hlow hhigh

/-- Settles O49: either reason leaves the choice of an instruction. -/
theorem noInterruptWhereNoneIsTakable : Obligations.NoInterruptWhereNoneIsTakable := by
  rintro s hres (htake | ⟨hnmi, hirq⟩)
  · exact step_of_instruction (nextEvent_of_waiting hres htake)
  · exact step_of_instruction (nextEvent_of_noneTakable hres hnmi hirq)

/-! ### An NMI line that is held -/

/-- The NMI line was asserted when last sampled, and its edge is no longer pending. -/
abbrev State.NmiSpent (s : State) : Prop := s.nmiPrev = true ∧ s.nmiPending = false

section HeldLine

variable {s t : State}

/-- A spent line gives no further edge at a boundary where it is held or released (R221). -/
theorem sampled_nmiPending_of_spent (h : s.NmiSpent) : s.sampled.nmiPending = false := by
  simp [State.sampled, h.1, h.2]

theorem no_nmi_of_spent (h : s.NmiSpent) : nextEvent s.boundary s.sampled ≠ .nmi := fun hevent => by
  obtain ⟨-, -, hpending⟩ := nextEvent_eq_nmi_iff.mp hevent
  exact nomatch (sampled_nmiPending_of_spent h).symm.trans hpending

/-- The entry clears the edge (R223); from a spent line on, the pending latch stays clear. -/
theorem step_nmiPending (h : step s = .next t) (hs : nextEvent s.boundary s.sampled = .nmi ∨ s.NmiSpent) :
    t.nmiPending = false := by
  rcases hs with hevent | hspent
  · rw [step_of_nmi hevent] at h
    exact (enter_kept h).nmiPending
  · rcases step_kept h with k | k
    · exact k.nmiPending.trans (sampled_nmiPending_of_spent hspent)
    · exact k.nmiPending

theorem step_spends_nmi (hheld : s.boundary.nmi = true) (h : step s = .next t)
    (hs : nextEvent s.boundary s.sampled = .nmi ∨ s.NmiSpent) : t.NmiSpent := by
  obtain ⟨-, -, -, -, hprev, -, -⟩ := stepOnlyConsumesEnvironment s t h
  exact ⟨hprev.trans hheld, step_nmiPending h hs⟩

/-- Along steps through which the line is held, it is spent from the one after the NMI entry on. -/
theorem nmiSpent_of_held {path : Nat → State} {k : Nat}
    (hentry : nextEvent (path 0).boundary (path 0).sampled = .nmi) (hheld : ∀ j, j ≤ k → (path j).boundary.nmi = true)
    (hsteps : ∀ j, j < k → step (path j) = .next (path (j + 1))) {j : Nat} (hj : j < k) : (path (j + 1)).NmiSpent := by
  induction j with
  | zero => exact step_spends_nmi (hheld 0 hj.le) (hsteps 0 hj) (.inl hentry)
  | succ j ih => exact step_spends_nmi (hheld (j + 1) hj.le) (hsteps (j + 1) hj) (.inr (ih (Nat.lt_of_succ_lt hj)))

end HeldLine

/-- Settles O50: a spent line is what the entry leaves, what every step with the line held keeps, and what no NMI follows;
so it holds all along the path. -/
theorem heldNmiLineIsTakenOnce : Obligations.HeldNmiLineIsTakenOnce := by
  refine ⟨fun s t => step_spends_nmi, fun s _ hprev hpending => no_nmi_of_spent ⟨hprev, hpending⟩,
    fun path k hentry hheld hsteps j hpos hj => ?_⟩
  obtain ⟨j, rfl⟩ := Nat.exists_eq_succ_of_ne_zero (Nat.pos_iff_ne_zero.mp hpos)
  exact no_nmi_of_spent (nmiSpent_of_held hentry hheld hsteps hj)

/-! ### The reset step -/

theorem step_of_reset {s : State} (h : nextEvent s.boundary s.sampled = .reset) : step s = resetStep s.sampled := by
  have h' : nextEvent s.boundary (sampleLines s) = .reset := h
  simp only [step, h']; rfl

/-- With its vector in memory a reset completes: nine draws, and PC from the vector (R250, R251). -/
theorem resetStep_memory {s : State} (hlow : s.IsMemory resVector) (hhigh : s.IsMemory (resVector + 1#16)) :
    resetStep s = .next { (drawFlags (drawRegisters (s.setP { s.p with i := true }))).jump
      (word (s.byteAt (resVector + 1#16)) (s.byteAt resVector)) with nmiPending := false } := by
  rw [resetStep, read16_memory (s := s.setP { s.p with i := true }) hlow hhigh, bindNext_next]
  rfl

/-- Settles O52: the asserted line is chosen before anything else, and the step is `resetStep_memory` of the sampled
state. -/
theorem resetStepKeepsMemory : Obligations.ResetStepKeepsMemory := by
  intro s hres hlow hhigh
  rw [step_of_reset (nextEvent_eq_reset hres), resetStep_memory (s := s.sampled) hlow hhigh]
  rfl

end Sys2Proof.Machine
end

section
/-! What each instruction leaves in `i_poll` (R230). -/

namespace Sys2Proof.Machine

section IPoll

variable {s t : State}

theorem next_iPoll {u : State} (h : (.next u : Result) = .next t) (hu : u.iPoll = u.p.i) : t.iPoll = t.p.i :=
  Host.Outcome.next.inj h ▸ hu

/-- What comes first does not matter to `i_poll`, only how the instruction ends. -/
theorem bindNext_iPoll {α : Type} {r : Host.Outcome α Fault Refusal} {f : α → Result} (h : bindNext r f = .next t)
    (hf : ∀ v, f v = .next t → t.iPoll = t.p.i) : t.iPoll = t.p.i := by
  obtain ⟨v, -, ht⟩ := bindNext_eq_next.mp h
  exact hf v ht

theorem implied_iPoll (h : implied s = .next t) : t.iPoll = t.p.i := next_iPoll h rfl

theorem withOperand_iPoll {o : Operand} {effect : Byte → State → State} (h : withOperand o effect s = .next t) :
    t.iPoll = t.p.i := bindNext_iPoll h fun _ ht => next_iPoll ht rfl

theorem storeAt_iPoll {f : AddrForm} {v : Byte} (h : storeAt f v s = .next t) : t.iPoll = t.p.i := by
  obtain ⟨-, -, w, -, -, rfl⟩ := storeAt_eq_next.mp h
  rfl

theorem modifyAt_iPoll {f : AddrForm} {op : Byte → Flags → Byte × Flags} (h : modifyAt f op s = .next t) :
    t.iPoll = t.p.i := by
  obtain ⟨-, -, m, -, x, -, -, -, -, rfl⟩ := modifyAt_eq_next.mp h
  rfl

theorem branchIf_iPoll {cond : Bool} {n : Byte} (h : branchIf cond n s = .next t) : t.iPoll = t.p.i := by
  refine next_iPoll h ?_
  split <;> rfl

theorem execJsr_iPoll {nn : Word} (h : execJsr nn s = .next t) : t.iPoll = t.p.i := by
  obtain ⟨-, u, -, rfl⟩ := execJsr_eq_next.mp h
  rfl

/-- After an entry `i_poll` is the I that it set (R230). -/
theorem enter_iPoll {ret vector : Word} {b : Bool} (h : enter ret b vector s = .next t) : t.iPoll = t.p.i := by
  obtain ⟨-, -, target, x, -, -, -, rfl⟩ := enter_eq_next.mp h
  rfl

/-- After a return `i_poll` is the I that it pulled: RTI has no lag (R230). -/
theorem returnFrom_iPoll (h : returnFrom s = .next t) : t.iPoll = t.p.i := by
  obtain ⟨-, -, target, w, -, -, rfl⟩ := returnFrom_eq_next.mp h
  rfl

/-- Every instruction but CLI, SEI and PLP ends in an advance or a jump, after which `i_poll` is I. The last case is the
instructions that read an operand. -/
theorem exec_iPoll_of_unlagged {i : Instr} (h : exec i s = .next t) (hi : i.lagsI = false) : t.iPoll = t.p.i := by
  cases i with
  | cli | sei | plp => cases hi
  | tax | tay | txa | tya | tsx | txs | inx | iny | dex | dey | clc | sec | cld | sed | clv | nop =>
    exact implied_iPoll h
  | aslAcc | lsrAcc | rolAcc | jmpAbs => exact next_iPoll h rfl
  | rorAcc => exact next_iPoll (ifRor_eq_next.mp h).2 rfl
  | staZp | staZpx | staAbs | staAbsx | staAbsy | staIndx | staIndy
  | stxZp | stxZpy | stxAbs | styZp | styZpx | styAbs =>
    simp only [exec] at h
    exact storeAt_iPoll h
  | incZp | incZpx | incAbs | incAbsx | decZp | decZpx | decAbs | decAbsx
  | aslZp | aslZpx | aslAbs | aslAbsx | lsrZp | lsrZpx | lsrAbs | lsrAbsx
  | rolZp | rolZpx | rolAbs | rolAbsx =>
    simp only [exec] at h
    exact modifyAt_iPoll h
  | rorZp | rorZpx | rorAbs | rorAbsx => exact modifyAt_iPoll (ifRor_eq_next.mp h).2
  | bpl | bmi | bvc | bvs | bcc | bcs | bne | beq => exact branchIf_iPoll h
  | pha | php | pla => exact bindNext_iPoll h fun _ => implied_iPoll
  | jmpInd | rts => exact bindNext_iPoll h fun _ ht => next_iPoll ht rfl
  | jsr => exact execJsr_iPoll h
  | brk => exact enter_iPoll h
  | rti => exact returnFrom_iPoll h
  | _ =>
    simp only [exec] at h
    exact withOperand_iPoll h

/-- CLI, SEI and PLP leave the I of before in `i_poll` (R230). -/
theorem exec_iPoll_of_lagged {i : Instr} (h : exec i s = .next t) (hi : i.lagsI = true) : t.iPoll = s.p.i := by
  cases i with
  | cli | sei => exact Host.Outcome.next.inj h ▸ rfl
  | plp =>
    obtain ⟨⟨v, u⟩, hu, ht⟩ := bindNext_eq_next.mp h
    obtain ⟨hstep, -⟩ := pull_storeStep hu
    rw [← Host.Outcome.next.inj ht, advanceLagged_iPoll, hstep.p_eq]
  | _ => cases hi

end IPoll

/-- Settles O51: the three instructions that lag, and all the others. -/
theorem iPollLagsOnlyAfterCliSeiPlp : Obligations.IPollLagsOnlyAfterCliSeiPlp := by
  intro i s t h
  split
  · next hi => exact exec_iPoll_of_lagged h hi
  · next hi => exact exec_iPoll_of_unlagged h (Bool.eq_false_of_not_eq_true hi)

end Sys2Proof.Machine
end

section
/-! The illegal opcodes (R89), and words of the table decoded (R88). -/

namespace Sys2Proof.Machine

/-- The blank cells of the chart are exactly the opcodes that R89 lists. -/
theorem shapeOf_eq_none_iff {op : Byte} : shapeOf op = none ↔ op ∈ illegalOpcodes := by
  have blank : (illegalOpcodes.all fun b => (shapeOf b).isNone) = true := rfl
  exact ⟨mem_illegalOpcodes_of_shapeOf, fun h => Option.isNone_iff_eq_none.mp (List.all_eq_true.mp blank op h)⟩

/-- The opcode of a shape is the first byte of every instruction of the shape. -/
theorem opcode_atZero_of_shapeOf {op : Byte} {sh : Shape} (h : shapeOf op = some sh) : sh.atZero.opcode = op := by
  have fits := shapeOf_fits h
  cases sh with
  | one i => exact (List.cons.inj fits).1
  | two f => exact (List.cons.inj (fits 0x00#8)).1
  | three f => exact (List.cons.inj (fits 0x0000#16)).1

theorem exists_opcode_iff (op : Byte) : (∃ i : Instr, i.opcode = op) ↔ op ∉ illegalOpcodes := by
  rw [← shapeOf_eq_none_iff]
  constructor
  · rintro ⟨i, rfl⟩ hnone
    obtain ⟨sh, hsh, -⟩ := shapeOf_opcode i
    exact nomatch hnone.symm.trans hsh
  · intro h
    obtain ⟨sh, hsh⟩ := Option.ne_none_iff_exists'.mp h
    exact ⟨sh.atZero, opcode_atZero_of_shapeOf hsh⟩

/-- No chip has an illegal opcode, with ROR or without. -/
theorem shapeOnChip_illegal {op : Byte} (h : op ∈ illegalOpcodes) (hasRor : Bool) : shapeOnChip hasRor op = none := by
  rw [shapeOnChip, shapeOf_eq_none_iff.mpr h, ite_self]

/-- Settles O2: the chart has an instruction for every opcode that is not listed, and the fetch of a listed one stops. -/
theorem illegalOpcodesStopTheModel : Obligations.IllegalOpcodesStopTheModel := by
  refine ⟨exists_opcode_iff, fun s hevent hm hop => ?_⟩
  have hread : read s.sampled.pc s.sampled = .next (s.byteAt s.pc, s.sampled) := read_memory (s := s.sampled) hm
  rw [step_of_instruction hevent, runInstruction, fetch_illegal hread (shapeOnChip_illegal hop _), bindNext_fault]
  rfl

/-- Settles O3: each word is decoded. -/
theorem specWordsDecode : Obligations.SpecWordsDecode := ⟨rfl, rfl, rfl, rfl, rfl, rfl, rfl, rfl, rfl, rfl⟩

end Sys2Proof.Machine
end

section
/-! The stack (R126 to R129); what pushes and pulls PC: RTS, BRK and RTI (R192, R208, R209); and the shifts of A (R170 to
R173). -/

namespace Sys2Proof.Machine

/-- A push in an instruction of one byte: the cell that S designates, S, PC and `i_poll`, and nothing else. -/
theorem pushImplied_next {s : State} (v : Byte) (h : s.MayStore (stackAddr s.sp)) :
    ∃ t, bindNext (push v s) implied = .next t ∧ StoredOnly s (stackAddr s.sp) v s.events t ∧
      t = { s with mem := t.mem, events := t.events, sp := s.sp - 1#8, pc := s.pc + 1#16, iPoll := s.p.i } := by
  obtain ⟨u, hu⟩ := write_completes v h
  obtain ⟨hsame, hstored, -⟩ := write_spec hu
  refine ⟨(u.setSp (u.sp - 1#8)).advance 1, ?_, hstored.transport (.refl s) (fun _ => rfl) rfl rfl, ?_⟩
  · rw [push, hu]; rfl
  · rw [hsame]; rfl

/-- Settles O18: both are a push in an instruction of one byte, of A and of the flags. -/
theorem pushesWriteTheStackCell : Obligations.PushesWriteTheStackCell := by
  intro s h
  rw [← stackAddr_eq] at h ⊢
  rw [← pByte_eq_pushedByte]
  exact ⟨pushImplied_next s.a h, pushImplied_next (pByte s.p true) h⟩

/-- A pull is one more on S and a read there, which looks at no register. -/
theorem pull_of_read {s s1 : State} {m : Byte} (h : read (stackAddr (s.sp + 1#8)) s = .next (m, s1)) :
    pull s = .next (m, { s.setSp (s.sp + 1#8) with events := s1.events, draws := s1.draws }) :=
  read_congr (s := s) rfl rfl rfl rfl h

/-- Settles O19: `pull_of_read`, and then what PLA or PLP does with the byte. -/
theorem pullsReadTheStackCell : Obligations.PullsReadTheStackCell := by
  intro s s1 m h
  rw [← stackAddr_eq] at h
  have hpull := pull_of_read h
  constructor
  · rw [exec, execPla, hpull, bindNext_next]
    exact implied_setNZ _ m
  · rw [exec, execPlp, hpull, bindNext_next]
    rfl

theorem word_add_one (hi lo : Byte) : word hi lo + 1#16 = BitVec.ofNat 16 (hi.toNat * 256 + lo.toNat + 1) := by
  rw [← word_toNat, ofNat_toNat_add]

/-- Settles O39: RTS is `pullWord_memory` and a jump one past the word. -/
theorem rtsReturnsPastThePulledAddress : Obligations.RtsReturnsPastThePulledAddress := by
  intro s hlow hhigh
  rw [exec, execRts, pullWord_memory hlow hhigh, bindNext_next, ← word_add_one]
  rfl

/-- Settles O41: BRK is the entry with PC + 2 and B = 1. -/
theorem brkEntersThroughTheIrqVector : Obligations.BrkEntersThroughTheIrqVector :=
  fun s hram hlow hhigh => enter_ram (s.pc + 2#16) true hram hlow hhigh

/-- Settles O42: RTI is the return, `returnFrom_memory`, with `flagsOf` written out. -/
theorem rtiRestoresFlagsAndPc : Obligations.RtiRestoresFlagsAndPc :=
  fun _ hp hlow hhigh => returnFrom_memory hp hlow hhigh

/-! ### Shifts of A -/

/-- An accumulator shift is its operation's equation, where that keeps I. -/
theorem modifyA_of_eq {op : Byte → Flags → Byte × Flags} {s : State} {r : Byte} {p : Flags} (h : op s.a s.p = (r, p))
    (hi : p.i = s.p.i) : modifyA op s = .next { s with a := r, p := p, pc := s.pc + 1#16, iPoll := s.p.i } := by
  rw [modifyA, h, ← hi]; rfl

/-- Settles O33: each is `modifyA` of its operation, ROR on a chip that has it; what the operation gives, over the natural
numbers, is said by its equation. -/
theorem shiftsOfAMoveOnePlace : Obligations.ShiftsOfAMoveOnePlace := fun s =>
  ⟨modifyA_of_eq (aslOp_eq s.a s.p) rfl, modifyA_of_eq (lsrOp_eq s.a s.p) rfl, modifyA_of_eq (rolOp_eq s.a s.p) rfl,
    fun hror => (ifRor_with hror).trans (modifyA_of_eq (rorOp_eq s.a s.p) rfl)⟩

end Sys2Proof.Machine
end

section
/-! Decimal ADC and SBC under `DECIMAL = strict` (R150). -/

namespace Sys2Proof.Machine

section Strict

variable {s : State} {m : Byte}

theorem adcEffect_strict (hd : s.p.d = true) (hrule : s.cfg.decimal = .strict) :
    adcEffect m s = decimalStrict m (addDec s.a m s.p.c) s := by
  rw [adcEffect, hd, hrule]; rfl

theorem sbcEffect_strict (hd : s.p.d = true) (hrule : s.cfg.decimal = .strict) :
    sbcEffect m s = decimalStrict m (subDec s.a m s.p.c) s := by
  rw [sbcEffect, hd, hrule]; rfl

end Strict

/-! ### The tables -/

section StrictForms

variable {n : Byte} {nn : Word} {i : Instr} {o : Operand} {s s1 : State} {m : Byte}

/-- With D = 1 under `strict`, every form of ADC is `decimalStrict` of the decimal sum. -/
theorem exec_adc_strict (hio : (i, o) ∈ Forms.adc n nn) (hv : o.value s = .next (m, s1)) (hd : s.p.d = true)
    (hrule : s.cfg.decimal = .strict) :
    exec i s = .next ((decimalStrict m (addDec s.a m s.p.c) s1).advance o.length) := by
  have hbus := value_spec hv
  rw [adc_shape _ hio, withOperand_next hv, adcEffect_strict (hbus.p_eq ▸ hd) (hbus.cfg_eq ▸ hrule), hbus.a_eq, hbus.p_eq]

/-- With D = 1 under `strict`, every form of SBC is `decimalStrict` of the decimal difference. -/
theorem exec_sbc_strict (hio : (i, o) ∈ Forms.sbc n nn) (hv : o.value s = .next (m, s1)) (hd : s.p.d = true)
    (hrule : s.cfg.decimal = .strict) :
    exec i s = .next ((decimalStrict m (subDec s.a m s.p.c) s1).advance o.length) := by
  have hbus := value_spec hv
  rw [sbc_shape _ hio, withOperand_next hv, sbcEffect_strict (hbus.p_eq ▸ hd) (hbus.cfg_eq ▸ hrule), hbus.a_eq, hbus.p_eq]

/-- On valid BCD the result and the carry are `t`, and Z, N and V are three draws: past the instruction, with what reading
the operand left in the history and the draws. -/
theorem decimalStrict_valid_advance (t : Byte × Bool) (len : Nat) (hbus : BusStep s s1)
    (h : (validBcd s.a && validBcd m) = true) :
    (decimalStrict m t s1).advance len = { s with
      a := t.1
      p := { s.p with
        c := t.2
        z := Config.freeBit s1.draws
        n := Config.freeBit (s1.draws + 1)
        v := Config.freeBit (s1.draws + 2) }
      pc := s.pc + BitVec.ofNat 16 len
      iPoll := s.p.i
      events := s1.events
      draws := s1.draws + 3 } := by
  rw [decimalStrict, hbus.a_eq, if_pos h, hbus.same]; rfl

/-- On any other operands the result and every flag of arithmetic are draws, whatever `t` is (U2). -/
theorem decimalStrict_invalid_advance (t : Byte × Bool) (len : Nat) (hbus : BusStep s s1)
    (h : (validBcd s.a && validBcd m) = false) :
    (decimalStrict m t s1).advance len = { s with
      a := Config.freeByte s1.draws
      p := { s.p with
        c := Config.freeBit (s1.draws + 1)
        z := Config.freeBit (s1.draws + 2)
        n := Config.freeBit (s1.draws + 3)
        v := Config.freeBit (s1.draws + 4) }
      pc := s.pc + BitVec.ofNat 16 len
      iPoll := s.p.i
      events := s1.events
      draws := s1.draws + 5 } := by
  rw [decimalStrict, hbus.a_eq, h, hbus.same]; rfl

end StrictForms

/-! The decimal results, as R150 writes them in digits. -/

theorem addDec_eq (a m : Byte) (c : Bool) : addDec a m c =
    (BitVec.ofNat 8 ((dec a + dec m + c.toNat) % 100 / 10 * 16 + (dec a + dec m + c.toNat) % 10),
      decide (100 ≤ dec a + dec m + c.toNat)) := by
  rw [ofNat_eq_bcd (d := dec a + dec m + c.toNat) (by omega)]; rfl

theorem subDec_eq (a m : Byte) (c : Bool) : subDec a m c =
    (BitVec.ofInt 8 (((dec a : Int) - dec m - (1 - (c.toNat : Int))) % 100 / 10 * 16 +
        ((dec a : Int) - dec m - (1 - (c.toNat : Int))) % 10),
      decide (0 ≤ (dec a : Int) - dec m - (1 - (c.toNat : Int)))) := by
  rw [ofInt_eq_bcd (d := (dec a : Int) - dec m - (1 - (c.toNat : Int))) (by omega)]; rfl

/-- Settles O24: every form is `decimalStrict`, which on valid BCD gives the decimal result in digits and three draws. -/
theorem decimalStrictOnValidBcd : Obligations.DecimalStrictOnValidBcd := by
  intro n nn i o s s1 m hv hd hrule ha hm
  have hvalid : (validBcd s.a && validBcd m) = true := by rw [ha, hm]; rfl
  refine ⟨_, _, _, rfl, rfl, rfl, fun hio => ?_, fun hio => ?_⟩
  · rw [exec_adc_strict hio hv hd hrule, decimalStrict_valid_advance _ _ (value_spec hv) hvalid, addDec_eq]
    rfl
  · rw [exec_sbc_strict hio hv hd hrule, decimalStrict_valid_advance _ _ (value_spec hv) hvalid, subDec_eq]
    rfl

/-- Settles O25: every form is `decimalStrict`, which is five draws where A or the operand is not valid BCD. -/
theorem decimalStrictOnInvalidBcd : Obligations.DecimalStrictOnInvalidBcd := by
  intro n nn i o s s1 m hio hv hd hrule hinvalid
  rcases List.mem_append.mp hio with hadc | hsbc
  · rw [exec_adc_strict hadc hv hd hrule, decimalStrict_invalid_advance _ _ (value_spec hv) hinvalid]
  · rw [exec_sbc_strict hsbc hv hd hrule, decimalStrict_invalid_advance _ _ (value_spec hv) hinvalid]

end Sys2Proof.Machine
end
